-- ==== Sys2Proof/Word.lean ====
section
/-! DEFINITION. The word types of the block (00_scope.md R7: bytes are unsigned 8-bit values, bit 0 the least
significant). Every width follows from the 8-bit fields of the wire format (00_scope.md R6). -/

namespace Sys2Proof

/-- A byte, 0 to 255 (00_scope.md R7). -/
abbrev Byte := BitVec 8

/-- The 32-bit `value` field of an event (30_encoding.md R74). -/
abbrev Word32 := BitVec 32

/-- The 14-bit decode word `W = {EVQ.v, ST[2:0], in_kind[1:0], in_data[7:0]}` (30_encoding.md R71). -/
abbrev DecodeWord := BitVec 14

end Sys2Proof
end

