-- ==== Sys2Proof/Syntax.lean ====
section
/-! DEFINITION. The block's vocabulary: state codes, input symbols, events, and `Instr`, one constructor for every
row of spec/opcode_table.json. -/

namespace Sys2Proof

/-- The eight codes of `ST` (30_encoding.md R72). The codes 6 and 7 are reserved and never reached (10_state.md R43);
they are values of the 3-bit register all the same. -/
inductive ParseState where
  | seekStart | readHeaderType | readHeaderLen | readPayload | readChecksum | stopped
  | reserved6 | reserved7
  deriving DecidableEq, Repr, Inhabited

/-- States 0 to 4, in which a symbol can be consumed (10_state.md R33). -/
def ParseState.isLive : ParseState → Bool
  | .seekStart | .readHeaderType | .readHeaderLen | .readPayload | .readChecksum => true
  | .stopped | .reserved6 | .reserved7 => false

/-- The field states 1 to 4, which read a part of a frame (44_stream_control.md R107). -/
def ParseState.isField : ParseState → Bool
  | .readHeaderType | .readHeaderLen | .readPayload | .readChecksum => true
  | .seekStart | .stopped | .reserved6 | .reserved7 => false

/-- The reserved codes 6 and 7 (30_encoding.md R72, R78). -/
def ParseState.isReserved : ParseState → Bool
  | .reserved6 | .reserved7 => true
  | .seekStart | .readHeaderType | .readHeaderLen | .readPayload | .readChecksum | .stopped => false

/-- The four input symbol kinds (10_state.md R32, 30_encoding.md R73). -/
inductive SymKind where
  | idle | byte | short | err
  deriving DecidableEq, Repr, Inhabited

/-- What the environment drives in one step: `rst`, the symbol `{in_kind, in_data}` and `ev_ready`
(00_scope.md R13, 10_state.md R31). -/
structure Input where
  rst     : Bool
  inKind  : SymKind
  inData  : Byte
  evReady : Bool
  deriving DecidableEq, Repr, Inhabited

/-- The eight codes of `EVQ.kind` (30_encoding.md R74), in code order. The codes 6 and 7 are never emitted. -/
inductive EventKind where
  | validReading | checksumMismatch | unknownSensorType | malformedPayload | streamError | shortRead
  | reserved6 | reserved7
  deriving DecidableEq, Repr, Inhabited

/-- The event record of 30_encoding.md R74. Each field's default is 0, so that a record written with the fields of its
kind only has "every field not listed" 0 (30_encoding.md R75). `payload` holds the payload bytes of a
`VALID_READING`, as 10_state.md R35 allows (log entry 8). -/
structure Event where
  kind    : EventKind  := .validReading
  type    : Byte       := 0
  len     : Byte       := 0
  value   : Word32     := 0
  recv    : Byte       := 0
  calcd   : Byte       := 0
  expW    : Byte       := 0
  actW    : Byte       := 0
  field   : BitVec 3   := 0
  detail  : Byte       := 0
  payload : List Byte  := []
  deriving DecidableEq, Repr, Inhabited

/-- The event output ports `ev_kind`, `ev_type`, … (10_state.md R31): the record's fields, less the payload. -/
structure EvPorts where
  evKind   : BitVec 3
  evType   : Byte
  evLen    : Byte
  evValue  : Word32
  evRecv   : Byte
  evCalc   : Byte
  evExpW   : Byte
  evActW   : Byte
  evField  : BitVec 3
  evDetail : Byte
  deriving DecidableEq, Repr, Inhabited

/-- The block's operations (30_encoding.md R70): one constructor for each row of spec/opcode_table.json. The operands
are the bits of the decode word that the row's pattern leaves free (30_encoding.md R76), so that a word can be written
back from its instruction. -/
inductive Instr where
  /-- STALL, R111: the symbol `{kind, data}` met in state `st` while an event is pending. -/
  | stall (st : ParseState) (kind : SymKind) (data : Byte)
  /-- RSV.STATE, R79: any symbol in a reserved state code. -/
  | rsvState (st : ParseState) (kind : SymKind) (data : Byte)
  /-- STOPPED.HOLD, R113: any symbol after the session has ended. -/
  | stoppedHold (kind : SymKind) (data : Byte)
  /-- IDLE, R110; the data bits are ignored. -/
  | idle (st : ParseState) (data : Byte)
  /-- STREAM.ERR, R109; `detail` is passed through unread. -/
  | streamErr (st : ParseState) (detail : Byte)
  /-- SEEK.SHORT, R83; the data bits are ignored. -/
  | seekShort (data : Byte)
  /-- FIELD.SHORT, R107; the data bits are ignored. -/
  | fieldShort (st : ParseState) (data : Byte)
  /-- SEEK.MARKER, R81; the data byte is the marker. -/
  | seekMarker
  /-- SEEK.DISCARD, R82. -/
  | seekDiscard (b : Byte)
  /-- HDR.TYPE, R86. -/
  | hdrType (b : Byte)
  /-- HDR.LEN, R87. -/
  | hdrLen (b : Byte)
  /-- PAY.BYTE, R88. -/
  | payByte (b : Byte)
  /-- CHK.BYTE, R93. -/
  | chkByte (c : Byte)
  /-- CHK.MATCH, R94: CHK.BYTE with `c = ACC`. -/
  | chkMatch (c : Byte)
  /-- CHK.MISMATCH, R95: CHK.BYTE with `c ≠ ACC`. -/
  | chkMismatch (c : Byte)
  /-- DISP.UNKNOWN, R99. -/
  | dispUnknown
  /-- DISP.MALFORMED, R100. -/
  | dispMalformed
  /-- DISP.TEMPERATURE, R102. -/
  | dispTemperature
  /-- DISP.HUMIDITY, R103. -/
  | dispHumidity
  /-- DISP.EXT, R104. -/
  | dispExt
  /-- EV.DRAIN, R112. -/
  | evDrain
  /-- RESET, R129. -/
  | reset
  deriving DecidableEq, Repr

end Sys2Proof
end

