-- ==== Sys2Proof/Config.lean ====
section
/-! DEFINITION. What an implementation fixes (00_scope.md R6) and the free values: opaque constants with no body, so
that nothing proved of the model can rest on one of their values. -/

namespace Sys2Proof

/-- How a descriptor's payload is decoded (10_state.md R28). -/
inductive DecodeKind where
  | f32le | u16le | ext
  deriving DecidableEq, Repr

/-- A registry entry `{ name, width, unit, kind }` (10_state.md R28). -/
structure Descriptor where
  name  : String
  width : Byte
  unit  : String
  kind  : DecodeKind
  deriving DecidableEq, Repr

/-- The registry as data: a list of (type id, descriptor) (10_state.md R28). -/
abbrev Registry := List (Byte × Descriptor)

/-- The parameters a run holds constant (00_scope.md R6, 70_reset_and_hazards.md R137). `EXT_DECODE` is
`Config.extDecode`; `HDR_BYTES` and `PAYLOAD_MAX` are fixed by the wire format. -/
structure Params where
  marker         : Byte
  registry       : Registry
  shortReadEvent : Bool
  deriving DecidableEq, Repr

/-- `MARKER` of this hardware (00_scope.md R6). -/
def Config.marker : Byte := 0xAA

/-- `HDR_BYTES` (00_scope.md R6). -/
def Config.hdrBytes : Byte := 2

/-- `PAYLOAD_MAX`, the number of entries of `PBUF` (00_scope.md R6, 10_state.md R27). -/
def Config.payloadMax : Nat := 255

/-- The built-in entry 0x01 (43_dispatch.md R98). -/
def Config.temperature : Descriptor :=
  { name := "TEMPERATURE", width := 4, unit := "°C", kind := .f32le }

/-- The built-in entry 0x02 (43_dispatch.md R98). -/
def Config.humidity : Descriptor :=
  { name := "HUMIDITY", width := 2, unit := "% relative humidity", kind := .u16le }

/-- The two built-in entries of 43_dispatch.md R98. -/
def Config.builtinRegistry : Registry := [(0x01, Config.temperature), (0x02, Config.humidity)]

/-- This hardware's parameter values (00_scope.md R6). -/
def Params.thisHardware : Params :=
  { marker := Config.marker, registry := Config.builtinRegistry, shortReadEvent := false }

/-- `EXT_DECODE` of 00_scope.md R6 and 43_dispatch.md R104: uninterpreted, total, a function of type and payload
alone (log entry 9). -/
opaque Config.extDecode : Byte → List Byte → Word32

/-- What the environment drives in step `tick` where `State.inputs` lists nothing: any input
(00_scope.md R13; log entry 1). -/
opaque Config.freeInput : Nat → Input

/-- The `ev_*` ports in step `tick` while `EVQ.v = 0`: any value (10_state.md R35, U10; log entry 10). -/
opaque Config.freeEvPorts : Nat → EvPorts

/-- `pl_data` in step `tick` at an address where it is unspecified: any byte (10_state.md R35, 20_memory.md R47, U11;
log entry 10). -/
opaque Config.freePlData : Nat → Byte → Byte

/-- `need` in step `tick` in a reserved state, which 10_state.md R34 has no row for: any byte (log entry 11). -/
opaque Config.freeNeed : Nat → Byte

end Sys2Proof
end

