-- ==== Sys2Proof/WellFormed.lean ====
section
/-! DEFINITION. Which terms of `Instr` are operations of the block: the operands a row's pattern admits
(30_encoding.md R76). -/

namespace Sys2Proof

/-- The operands are ones the row of 30_encoding.md R76 can carry, for the marker parameter `marker`. STALL takes any
state and symbol (its row is first); RSV.STATE takes ST 6 or 7; IDLE and STREAM.ERR take ST 0 to 4; FIELD.SHORT takes
ST 1 to 4, SEEK.SHORT being the row before it; SEEK.DISCARD takes a byte that is not the marker. -/
def Instr.wellFormed (marker : Byte) : Instr → Bool
  | .stall _ _ _ => true
  | .rsvState st _ _ => st.isReserved
  | .stoppedHold _ _ => true
  | .idle st _ => st.isLive
  | .streamErr st _ => st.isLive
  | .seekShort _ => true
  | .fieldShort st _ => st.isField
  | .seekMarker => true
  | .seekDiscard b => b != marker
  | .hdrType _ => true
  | .hdrLen _ => true
  | .payByte _ => true
  | .chkByte _ => true
  | .chkMatch _ => true
  | .chkMismatch _ => true
  | .dispUnknown => true
  | .dispMalformed => true
  | .dispTemperature => true
  | .dispHumidity => true
  | .dispExt => true
  | .evDrain => true
  | .reset => true

/-- The instruction is a row of 30_encoding.md R76 with a decode word of its own. CHK.MATCH and CHK.MISMATCH share
CHK.BYTE's word; the dispatch rows and the control operations have none (30_encoding.md R70, R77). -/
def Instr.hasOwnWord : Instr → Bool
  | .stall _ _ _ | .rsvState _ _ _ | .stoppedHold _ _ | .idle _ _ | .streamErr _ _ | .seekShort _ | .fieldShort _ _
  | .seekMarker | .seekDiscard _ | .hdrType _ | .hdrLen _ | .payByte _ | .chkByte _ => true
  | .chkMatch _ | .chkMismatch _ | .dispUnknown | .dispMalformed | .dispTemperature | .dispHumidity | .dispExt
  | .evDrain | .reset => false

end Sys2Proof
end

