-- ==== Sys2Proof/Decode.lean ====
section
/-! DEFINITION. The decode word and the operation decode (30_encoding.md R71 to R76), and the encoder beside it. -/

namespace Sys2Proof

/-! ### Codes -/

/-- State codes (30_encoding.md R72). -/
def ParseState.code : ParseState → BitVec 3
  | .seekStart => 0 | .readHeaderType => 1 | .readHeaderLen => 2 | .readPayload => 3 | .readChecksum => 4
  | .stopped => 5 | .reserved6 => 6 | .reserved7 => 7

/-- The state of a 3-bit code (30_encoding.md R72). -/
def ParseState.ofCode (c : BitVec 3) : ParseState :=
  match c.toNat with
  | 0 => .seekStart | 1 => .readHeaderType | 2 => .readHeaderLen | 3 => .readPayload | 4 => .readChecksum
  | 5 => .stopped | 6 => .reserved6 | _ => .reserved7

/-- Symbol kind codes (30_encoding.md R73). -/
def SymKind.code : SymKind → BitVec 2
  | .idle => 0 | .byte => 1 | .short => 2 | .err => 3

/-- The symbol kind of a 2-bit code (30_encoding.md R73). -/
def SymKind.ofCode (c : BitVec 2) : SymKind :=
  match c.toNat with
  | 0 => .idle | 1 => .byte | 2 => .short | _ => .err

/-- Event kind codes (30_encoding.md R74). -/
def EventKind.code : EventKind → BitVec 3
  | .validReading => 0 | .checksumMismatch => 1 | .unknownSensorType => 2 | .malformedPayload => 3
  | .streamError => 4 | .shortRead => 5 | .reserved6 => 6 | .reserved7 => 7

/-! ### The decode word -/

/-- `W = {EVQ.v, ST, in_kind, in_data}` (30_encoding.md R71). -/
def mkDecodeWord (v : Bool) (st : ParseState) (kind : SymKind) (data : Byte) : DecodeWord :=
  BitVec.ofBool v ++ st.code ++ kind.code ++ data

/-- `W[13] = EVQ.v` (30_encoding.md R71). -/
def DecodeWord.evqV (w : DecodeWord) : Bool := w.getLsbD 13

/-- `W[12:10] = ST` (30_encoding.md R71). -/
def DecodeWord.st (w : DecodeWord) : ParseState := .ofCode (w.extractLsb' 10 3)

/-- `W[9:8] = in_kind` (30_encoding.md R71). -/
def DecodeWord.kind (w : DecodeWord) : SymKind := .ofCode (w.extractLsb' 8 2)

/-- `W[7:0] = in_data` (30_encoding.md R71). -/
def DecodeWord.data (w : DecodeWord) : Byte := w.extractLsb' 0 8

/-- The first row of 30_encoding.md R76 that matches the fields of a decode word, with that row's operands. -/
def decodeFields (marker : Byte) (v : Bool) (st : ParseState) (kind : SymKind) (data : Byte) : Instr :=
  if v then .stall st kind data
  else match st with
    | .reserved6 => .rsvState .reserved6 kind data
    | .reserved7 => .rsvState .reserved7 kind data
    | .stopped => .stoppedHold kind data
    | .seekStart =>
      match kind with
      | .idle => .idle .seekStart data
      | .err => .streamErr .seekStart data
      | .short => .seekShort data
      | .byte => if data = marker then .seekMarker else .seekDiscard data
    | .readHeaderType =>
      match kind with
      | .idle => .idle .readHeaderType data
      | .err => .streamErr .readHeaderType data
      | .short => .fieldShort .readHeaderType data
      | .byte => .hdrType data
    | .readHeaderLen =>
      match kind with
      | .idle => .idle .readHeaderLen data
      | .err => .streamErr .readHeaderLen data
      | .short => .fieldShort .readHeaderLen data
      | .byte => .hdrLen data
    | .readPayload =>
      match kind with
      | .idle => .idle .readPayload data
      | .err => .streamErr .readPayload data
      | .short => .fieldShort .readPayload data
      | .byte => .payByte data
    | .readChecksum =>
      match kind with
      | .idle => .idle .readChecksum data
      | .err => .streamErr .readChecksum data
      | .short => .fieldShort .readChecksum data
      | .byte => .chkByte data

/-- The operation decode (30_encoding.md R76), total on 14-bit words. -/
def decode (marker : Byte) (w : DecodeWord) : Instr :=
  decodeFields marker w.evqV w.st w.kind w.data

/-! ### The decode word laid out in bytes (log entry 12) -/

/-- Why bytes are not a decode word. -/
inductive DecodeReject where
  /-- Fewer than two bytes. -/
  | truncated
  /-- A bit above bit 13 is set: a decode word has 14 bits (30_encoding.md R71). -/
  | notADecodeWord
  deriving DecidableEq, Repr

/-- Reads one decode word from two bytes, the first one bits 7..0, and gives the rest of the bytes. -/
def decodeBytes (marker : Byte) : List Byte → Except DecodeReject (Instr × List Byte)
  | lo :: hi :: rest =>
    if hi.toNat < 64 then .ok (decode marker (hi.setWidth 6 ++ lo), rest) else .error .notADecodeWord
  | _ => .error .truncated

/-- The instruction the decoder reads from a table row's word, for this hardware's `MARKER`: the word is laid out in
bytes, the first one bits 7..0, and given to `decodeBytes`. -/
def decodeTableWord (nbits w : Nat) : Option Instr :=
  let v := w % 2 ^ nbits
  if v / 65536 = 0 then
    match decodeBytes Config.marker [BitVec.ofNat 8 v, BitVec.ofNat 8 (v / 256)] with
    | .ok (i, _) => some i
    | .error _ => none
  else none

/-! ### The encoder -/

/-- The decode word of an instruction (30_encoding.md R76; CHK.MATCH and CHK.MISMATCH have CHK.BYTE's word, 42_checksum.md
R93). The dispatch rows are selected by TYPE, LEN and REGISTRY (30_encoding.md R77) and the control operations by
`ev_ready` and `rst` (44_stream_control.md R112, 70_reset_and_hazards.md R129): they have no word. -/
def encode (marker : Byte) : Instr → Option DecodeWord
  | .stall st kind data => some (1#1 ++ st.code ++ kind.code ++ data)
  | .rsvState st kind data => some (0#1 ++ st.code ++ kind.code ++ data)
  | .stoppedHold kind data => some (0b0101#4 ++ kind.code ++ data)
  | .idle st data => some (0#1 ++ st.code ++ 0b00#2 ++ data)
  | .streamErr st detail => some (0#1 ++ st.code ++ 0b11#2 ++ detail)
  | .seekShort data => some (0b000010#6 ++ data)
  | .fieldShort st data => some (0#1 ++ st.code ++ 0b10#2 ++ data)
  | .seekMarker => some (0b000001#6 ++ marker)
  | .seekDiscard b => some (0b000001#6 ++ b)
  | .hdrType b => some (0b000101#6 ++ b)
  | .hdrLen b => some (0b001001#6 ++ b)
  | .payByte b => some (0b001101#6 ++ b)
  | .chkByte c => some (0b010001#6 ++ c)
  | .chkMatch c => some (0b010001#6 ++ c)
  | .chkMismatch c => some (0b010001#6 ++ c)
  | .dispUnknown => none
  | .dispMalformed => none
  | .dispTemperature => none
  | .dispHumidity => none
  | .dispExt => none
  | .evDrain => none
  | .reset => none

/-! ### The decode table as 30_encoding.md R76 prints it -/

/-- A row of 30_encoding.md R76: it matches the words `w` with `w &&& mask = pattern`. -/
structure DecodeRow where
  mnemonic : String
  mask     : DecodeWord
  pattern  : DecodeWord
  deriving DecidableEq, Repr

/-- The thirteen rows of 30_encoding.md R76 in their order. "For another `MARKER` parameter value", row 8's "low 8 bits
are that value". -/
def decodeTable (marker : Byte) : List DecodeRow :=
  [ ⟨"STALL", 0x2000, 0x2000⟩, ⟨"RSV.STATE", 0x3800, 0x1800⟩, ⟨"STOPPED.HOLD", 0x3C00, 0x1400⟩,
    ⟨"IDLE", 0x2300, 0x0000⟩, ⟨"STREAM.ERR", 0x2300, 0x0300⟩, ⟨"SEEK.SHORT", 0x3F00, 0x0200⟩,
    ⟨"FIELD.SHORT", 0x2300, 0x0200⟩ ] ++
  [ ⟨"SEEK.MARKER", 0x3FFF, 0b000001#6 ++ marker⟩, ⟨"SEEK.DISCARD", 0x3F00, 0x0100⟩, ⟨"HDR.TYPE", 0x3F00, 0x0500⟩,
    ⟨"HDR.LEN", 0x3F00, 0x0900⟩, ⟨"PAY.BYTE", 0x3F00, 0x0D00⟩, ⟨"CHK.BYTE", 0x3F00, 0x1100⟩ ]

/-- The first row whose pattern matches (30_encoding.md R76). -/
def firstMatch (w : DecodeWord) : List DecodeRow → Option String
  | [] => none
  | r :: rest => if w &&& r.mask = r.pattern then some r.mnemonic else firstMatch w rest

/-- The instruction's name in 30_encoding.md R70. -/
def Instr.mnemonic : Instr → String
  | .stall _ _ _ => "STALL"
  | .rsvState _ _ _ => "RSV.STATE"
  | .stoppedHold _ _ => "STOPPED.HOLD"
  | .idle _ _ => "IDLE"
  | .streamErr _ _ => "STREAM.ERR"
  | .seekShort _ => "SEEK.SHORT"
  | .fieldShort _ _ => "FIELD.SHORT"
  | .seekMarker => "SEEK.MARKER"
  | .seekDiscard _ => "SEEK.DISCARD"
  | .hdrType _ => "HDR.TYPE"
  | .hdrLen _ => "HDR.LEN"
  | .payByte _ => "PAY.BYTE"
  | .chkByte _ => "CHK.BYTE"
  | .chkMatch _ => "CHK.MATCH"
  | .chkMismatch _ => "CHK.MISMATCH"
  | .dispUnknown => "DISP.UNKNOWN"
  | .dispMalformed => "DISP.MALFORMED"
  | .dispTemperature => "DISP.TEMPERATURE"
  | .dispHumidity => "DISP.HUMIDITY"
  | .dispExt => "DISP.EXT"
  | .evDrain => "EV.DRAIN"
  | .reset => "RESET"

end Sys2Proof
end

