-- ==== Sys2Proof/Machine/Registry.lean ====
section
/-! DEFINITION. The registry as a partial map and its legality (10_state.md R28, R29; log entry 18). -/

namespace Sys2Proof

/-- `REGISTRY[t]`: the descriptor of a type id, or nothing (10_state.md R28). -/
def Registry.find (t : Byte) : Registry → Option Descriptor
  | [] => none
  | e :: rest => if e.1 = t then some e.2 else Registry.find t rest

/-- The width condition of 10_state.md R29 on one descriptor. -/
def Descriptor.legal (d : Descriptor) : Bool :=
  match d.kind with
  | .f32le => d.width == 4
  | .u16le => d.width == 2
  | .ext => true

/-- A legal `REGISTRY` (10_state.md R29): at most one descriptor a type id, and each width fits its kind. -/
def Params.legal (p : Params) : Bool :=
  decide (p.registry.map Prod.fst).Nodup && p.registry.all fun e => e.2.legal

end Sys2Proof
end

