-- ==== Sys2Proof/Machine/State.lean ====
section
/-! DEFINITION. The state of the block (10_state.md R17) as plain data, why a step can stop, and the state after
reset (10_state.md R39). -/

namespace Sys2Proof.Machine

/-- Sparse storage: (address, byte) pairs, addresses strictly rising (`Memory.wf`). An address that is not listed is
an unwritten entry (10_state.md R40; log entry 4). -/
abbrev Memory := List Host.Cell

/-- The whole architectural state of 10_state.md R17 (`st` to `evqV`), and three fields of the model's own: the
parameters of the run, the inputs to come and the step counter behind the free values. -/
structure State where
  /-- `ST`, 3 bits (10_state.md R23). -/
  st     : ParseState
  /-- `TYPE`, 8 bits (10_state.md R19). -/
  type   : Byte
  /-- `LEN`, 8 bits (10_state.md R20). -/
  len    : Byte
  /-- `CNT`, 8 bits (10_state.md R21). -/
  cnt    : Byte
  /-- `ACC`, 8 bits (10_state.md R22). -/
  acc    : Byte
  /-- `PBUF[0..254]`, each entry unwritten or a byte (10_state.md R27, R40). -/
  pbuf   : Memory
  /-- `EVQ`'s record (10_state.md R24, 30_encoding.md R74). -/
  evq    : Event
  /-- `EVQ.v` (10_state.md R24). -/
  evqV   : Bool
  /-- The parameters of 00_scope.md R6, constant in a run (70_reset_and_hazards.md R137); not the block's state
  (10_state.md R28; log entry 2). -/
  params : Params
  /-- What the environment drives in the steps to come, the next step first; not the block's state
  (00_scope.md R13; log entry 1). -/
  inputs : List Input
  /-- Steps taken: the argument of the free values; not the block's state (log entry 3). -/
  tick   : Nat
  deriving DecidableEq, Repr

/-- Why the model stops. No run from reset with a legal registry meets one of these (10_state.md R40, R42, R43). -/
inductive Fault where
  /-- Raised by RSV.STATE: `ST` is 6 or 7 (30_encoding.md R79, `Fault(ReservedState)`). Safe. -/
  | reservedState
  /-- Raised by the dispatcher: it reads a `PBUF` entry that nothing has written (10_state.md R40). Safe. -/
  | unwrittenPayload
  /-- Raised by PAY.BYTE: `CNT` is 255 and `PBUF[255]` does not exist (20_memory.md R47; log entry 5). Safe. -/
  | payloadIndex
  deriving DecidableEq, Repr

/-- Why the model gives a step no meaning. -/
inductive Refusal where
  /-- Raised by `exec` for an instruction without a meaning. Safe. -/
  | notModelled (mnemonic : String)
  /-- Raised by a meaning performed where its row does not select it (30_encoding.md R76, R77; log entry 6); no step
  does that. Safe. -/
  | notSelected
  /-- Raised by a step, and by a dispatch, whose `REGISTRY` breaks 10_state.md R29 ("A model refuses a parameter that
  breaks one of these"; log entry 7). Safe. -/
  | illegalRegistry
  deriving DecidableEq, Repr

/-- The machine right after the first reset (10_state.md R39, 70_reset_and_hazards.md R130): every `PBUF` entry is
unwritten. The model's own fields: this hardware's parameters, nothing scheduled, no step taken. -/
def State.reset : State :=
  { st := .seekStart, type := 0, len := 0, cnt := 0, acc := 0, pbuf := [], evq := {}, evqV := false,
    params := Params.thisHardware, inputs := [], tick := 0 }

end Sys2Proof.Machine
end

