-- ==== Sys2Proof/Machine/Operands.lean ====
section
/-! DEFINITION. The values operations compute from bytes: the exclusive-or fold, the checksum, the little-endian words
and DECODE; and the input record of a step. -/

namespace Sys2Proof.Machine

/-- `xor_fold` (00_scope.md R9): the exclusive-or of all bytes of a list, every repetition counted (90_conflicts.md
C6). -/
def xorFold : List Byte → Byte
  | [] => 0x00
  | b :: rest => b ^^^ xorFold rest

/-- `checksum(t, n, p) = MARKER ^ t ^ n ^ xor_fold(p)` (42_checksum.md R91, 30_encoding.md R63). -/
def checksum (marker t n : Byte) (p : List Byte) : Byte := marker ^^^ t ^^^ n ^^^ xorFold p

/-- `LE16(b0, b1) = {b1, b0}` (00_scope.md R9). -/
def le16 (b0 b1 : Byte) : BitVec 16 := b1 ++ b0

/-- `LE32(b0, b1, b2, b3)`, the first byte least significant (00_scope.md R9). -/
def le32 (b0 b1 b2 b3 : Byte) : Word32 := b3 ++ b2 ++ b1 ++ b0

/-- `DECODE(kind, t, p)` (43_dispatch.md R101 to R104); nothing for a payload whose length does not fit the kind. -/
def decodeValue (kind : DecodeKind) (t : Byte) (p : List Byte) : Option Word32 :=
  match kind, p with
  | .f32le, [p0, p1, p2, p3] => some (le32 p0 p1 p2 p3)
  | .f32le, _ => none
  | .u16le, [p0, p1] => some ((le16 p0 p1).setWidth 32)
  | .u16le, _ => none
  | .ext, p => some (Config.extDecode t p)

/-- The inputs of the next step: the schedule's first, or any input where it lists none (00_scope.md R13; log
entry 1). -/
def State.nextInput (s : State) : Input :=
  match s.inputs with
  | i :: _ => i
  | [] => Config.freeInput s.tick

/-- The decode word of a step (30_encoding.md R71), formed from the start-of-step state and the symbol. -/
def State.decodeWord (s : State) (inp : Input) : DecodeWord :=
  mkDecodeWord s.evqV s.st inp.inKind inp.inData

end Sys2Proof.Machine
end

