-- ==== Sys2Proof/Machine/Flags.lean ====
section
/-! DEFINITION. The one-bit conditions of 10_state.md R26 and `in_ready` (R33). -/

namespace Sys2Proof.Machine

/-- `match = (c = ACC)`, combinational (10_state.md R26, 42_checksum.md R93). -/
def State.checksumMatches (s : State) (c : Byte) : Bool := c == s.acc

/-- `ST = STOPPED` (10_state.md R26). -/
def State.isStopped (s : State) : Bool := s.st == .stopped

/-- `in_ready = (EVQ.v = 0) and (ST != STOPPED) and (ST <= 4)` (10_state.md R33). -/
def State.inReady (s : State) : Bool :=
  !s.evqV && !s.isStopped && decide (s.st.code.toNat ≤ 4)

/-- EV.DRAIN takes place in a step (44_stream_control.md R114): `EVQ.v = 1` at its start and `ev_ready = 1`. -/
def State.drains (s : State) (inp : Input) : Bool := s.evqV && inp.evReady

end Sys2Proof.Machine
end

