-- ==== Sys2Proof/Machine/Ops.lean ====
section
/-! DEFINITION. The shared operations: the payload buffer, the state's updates, raising an outcome (the block's
counterpart of taking an exception, 60_exceptions.md R121), reset, and the guard of a meaning. -/

namespace Sys2Proof.Machine

/-! ### The payload buffer (20_memory.md R45 to R48) -/

/-- What an entry that nothing has written reads as: it holds no value (10_state.md R40). -/
def Memory.unlisted : Option Byte := none

/-- `PBUF[i]`. -/
def Memory.read : Memory → Nat → Option Byte
  | [], _ => Memory.unlisted
  | c :: rest, i => if c.1 = i then some c.2 else Memory.read rest i

/-- `PBUF[i] <- b`, keeping the addresses strictly rising. -/
def Memory.write : Memory → Nat → Byte → Memory
  | [], i, b => [(i, b)]
  | c :: rest, i, b =>
    if i < c.1 then (i, b) :: c :: rest
    else if i = c.1 then (i, b) :: rest
    else c :: Memory.write rest i b

/-- The canonical form: addresses strictly rising, each one an index of `PBUF` (20_memory.md R47). Every byte is
listed as written; no byte equals what an unlisted address reads as, which is no byte. -/
abbrev Memory.wf (m : Memory) : Prop :=
  m.Pairwise (fun c d => c.1 < d.1) ∧ ∀ c ∈ m, c.1 < Config.payloadMax

/-- `PBUF[i..i+n-1]`, or nothing where one of the entries is unwritten. -/
def Memory.readRange (m : Memory) (i : Nat) : Nat → Option (List Byte)
  | 0 => some []
  | n + 1 =>
    match m.read i, Memory.readRange m (i + 1) n with
    | some b, some rest => some (b :: rest)
    | _, _ => none

/-- The payload of the current frame, `PBUF[0..LEN-1]` (42_checksum.md R94). -/
def State.payload (s : State) : Option (List Byte) := s.pbuf.readRange 0 s.len.toNat

/-! ### The state's updates -/

/-- `ST <- v`. -/
def State.setSt (s : State) (v : ParseState) : State := { s with st := v }
/-- `TYPE <- v`. -/
def State.setType (s : State) (v : Byte) : State := { s with type := v }
/-- `LEN <- v`. -/
def State.setLen (s : State) (v : Byte) : State := { s with len := v }
/-- `CNT <- v`. -/
def State.setCnt (s : State) (v : Byte) : State := { s with cnt := v }
/-- `ACC <- v`. -/
def State.setAcc (s : State) (v : Byte) : State := { s with acc := v }
/-- `PBUF[i] <- b`. -/
def State.setPbuf (s : State) (i : Nat) (b : Byte) : State := { s with pbuf := s.pbuf.write i b }
/-- `emit(e)`: `EVQ <- e; EVQ.v <- 1` (00_scope.md R8, 10_state.md R25). -/
def State.emit (s : State) (e : Event) : State := { s with evq := e, evqV := true }
/-- `EVQ.v <- 0`; the other `EVQ` fields keep their values (44_stream_control.md R112). -/
def State.clearEvent (s : State) : State := { s with evqV := false }
/-- The environment's clock: the step takes its inputs from the schedule and the counter counts it (log entries 1
and 3). -/
def State.takeInput (s : State) : State := { s with inputs := s.inputs.tail, tick := s.tick + 1 }

/-! ### Raising an outcome -/

/-- Where the block is after an event of a kind (60_exceptions.md R116, R121): `STOPPED` after `STREAM_ERROR`,
`SEEK_START` after any other. -/
def stateAfter : EventKind → ParseState
  | .streamError => .stopped
  | .validReading | .checksumMismatch | .unknownSensorType | .malformedPayload | .shortRead
  | .reserved6 | .reserved7 => .seekStart

/-- The entry into an outcome (60_exceptions.md R121): the record is saved in `EVQ` and `ST` is set by its kind. -/
def State.raise (s : State) (e : Event) : State := (s.emit e).setSt (stateAfter e.kind)

/-- RESET_STATE (70_reset_and_hazards.md R129, 10_state.md R39): `PBUF` is unchanged. -/
def State.resetState (s : State) : State :=
  { s with st := .seekStart, type := 0x00, len := 0x00, cnt := 0x00, acc := 0x00, evq := {}, evqV := false }

/-! ### Outcomes of a meaning -/

/-- The outcome of a meaning or a step. -/
abbrev Result := Host.Outcome State Fault Refusal

/-- A meaning applies only in a step that selects its row (the opening of 40_seek_start.md and 41_header_payload.md;
log entry 6). -/
def onlyWhen (c : Prop) [Decidable c] (body : Result) : Result :=
  if c then body else .refused .notSelected

/-- Goes on with the next state, or stops as `r` stops. -/
def andThen (r : Result) (f : State → Result) : Result :=
  match r with
  | .next t => f t
  | .fault e => .fault e
  | .refused e => .refused e

end Sys2Proof.Machine
end

