-- ==== Sys2Proof/Machine/Dispatcher.lean ====
section
/-! DEFINITION. The frame-type dispatcher (30_encoding.md R77, 43_dispatch.md R97 to R105): the records it returns,
its row selection, and the meanings of the five DISP rows. They are performed inside CHK.MATCH (30_encoding.md R69), in
a step whose start state is `READ_CHECKSUM` with no event pending; their effect is that step's (log entry 13). -/

namespace Sys2Proof.Machine

/-! ### Event records (30_encoding.md R75) -/

/-- `UNKNOWN_SENSOR_TYPE{type = t}` (43_dispatch.md R99). -/
def unknownTypeEvent (t : Byte) : Event := { kind := .unknownSensorType, type := t }

/-- `MALFORMED_PAYLOAD{type = t, exp_w = w, act_w = n}` (43_dispatch.md R100). -/
def malformedEvent (t w n : Byte) : Event := { kind := .malformedPayload, type := t, expW := w, actW := n }

/-- `VALID_READING{type = t, len = n, value = v, payload = p}` (43_dispatch.md R101). -/
def readingEvent (t n : Byte) (v : Word32) (p : List Byte) : Event :=
  { kind := .validReading, type := t, len := n, value := v, payload := p }

/-! ### DISPATCH as a function (43_dispatch.md R97) -/

/-- `DISPATCH(t, n, p)` (43_dispatch.md R97). Nothing where the kind's layout does not fit the descriptor's width, which
a legal registry rules out (10_state.md R29). -/
def dispatch (ps : Params) (t n : Byte) (p : List Byte) : Option Event :=
  match ps.registry.find t with
  | none => some (unknownTypeEvent t)
  | some e =>
    if n ≠ e.width then some (malformedEvent t e.width n)
    else
      match decodeValue e.kind t p with
      | some v => some (readingEvent t n v p)
      | none => none

/-! ### Row selection (30_encoding.md R77) -/

/-- The rows of 30_encoding.md R77. -/
inductive DispatchRow where
  | unknown | malformed | temperature | humidity | ext
  deriving DecidableEq, Repr

/-- The first matching row of 30_encoding.md R77 on `TYPE` and `LEN`; none only for a registry that is not legal. -/
def dispatchRow (ps : Params) (t n : Byte) : Option DispatchRow :=
  match ps.registry.find t with
  | none => some .unknown
  | some e =>
    if n ≠ e.width then some .malformed
    else
      match e.kind with
      | .f32le => if n = 4 then some .temperature else none
      | .u16le => if n = 2 then some .humidity else none
      | .ext => some .ext

/-- A valid reading of the payload `PBUF[0..LEN-1]` (43_dispatch.md R101): the step raises it, or stops where an entry
is unwritten (10_state.md R40). -/
def raiseReading (kind : DecodeKind) (s : State) : Result :=
  match s.payload with
  | none => .fault .unwrittenPayload
  | some p =>
    match decodeValue kind s.type p with
    | some v => .next (s.raise (readingEvent s.type s.len v p))
    | none => .refused .illegalRegistry

/-- The condition common to the DISP rows: the dispatch takes place in the step that consumes the checksum byte
(20_memory.md R46), and the row is the one 30_encoding.md R77 selects. -/
abbrev State.dispatches (s : State) (r : DispatchRow) : Prop :=
  s.evqV = false ∧ s.st = .readChecksum ∧ dispatchRow s.params s.type s.len = some r

/-- DISP.UNKNOWN (43_dispatch.md R99): no descriptor; the length is not checked and the payload not read. -/
def execDispUnknown (s : State) : Result :=
  onlyWhen (s.dispatches .unknown) (.next (s.raise (unknownTypeEvent s.type)))

/-- DISP.MALFORMED (43_dispatch.md R100): a registered type with the wrong length. -/
def execDispMalformed (s : State) : Result :=
  onlyWhen (s.dispatches .malformed) <|
    match s.params.registry.find s.type with
    | some e => .next (s.raise (malformedEvent s.type e.width s.len))
    | none => .refused .notSelected

/-- DISP.TEMPERATURE (43_dispatch.md R102): kind `F32LE`, the binary32 bit pattern passed through unchanged. -/
def execDispTemperature (s : State) : Result :=
  onlyWhen (s.dispatches .temperature) (raiseReading .f32le s)

/-- DISP.HUMIDITY (43_dispatch.md R103): kind `U16LE`, zero-extended, no range check. -/
def execDispHumidity (s : State) : Result :=
  onlyWhen (s.dispatches .humidity) (raiseReading .u16le s)

/-- DISP.EXT (43_dispatch.md R104): kind `EXT`, the value is `EXT_DECODE(t, p)`. -/
def execDispExt (s : State) : Result :=
  onlyWhen (s.dispatches .ext) (raiseReading .ext s)

end Sys2Proof.Machine
end

