-- ==== Sys2Proof/Machine/Checksum.lean ====
section
/-! DEFINITION. READ_CHECKSUM and the validator (42_checksum.md R93 to R95). -/

namespace Sys2Proof.Machine

/-- `CHECKSUM_MISMATCH{ recv = c, calc = k }` (42_checksum.md R95). -/
def mismatchEvent (c k : Byte) : Event := { kind := .checksumMismatch, recv := c, calcd := k }

/-- CHK.MATCH, EMIT (42_checksum.md R94): the dispatcher's row for the frame raises its event, and `ST` becomes
`SEEK_START`. -/
def execChkMatch (c : Byte) (s : State) : Result :=
  onlyWhen (s.evqV = false ∧ s.st = .readChecksum ∧ s.checksumMatches c = true) <|
    match dispatchRow s.params s.type s.len with
    | some .unknown => execDispUnknown s
    | some .malformed => execDispMalformed s
    | some .temperature => execDispTemperature s
    | some .humidity => execDispHumidity s
    | some .ext => execDispExt s
    | none => .refused .illegalRegistry

/-- CHK.MISMATCH, REJECT (42_checksum.md R95): the dispatcher is not invoked. -/
def execChkMismatch (c : Byte) (s : State) : Result :=
  onlyWhen (s.evqV = false ∧ s.st = .readChecksum ∧ s.checksumMatches c = false) <|
    .next (s.raise (mismatchEvent c s.acc))

/-- CHK.BYTE (42_checksum.md R93): the checksum byte, which is not folded into `ACC`. `ST <- SEEK_START` is in both of
its sub-operations. -/
def execChkByte (c : Byte) (s : State) : Result :=
  onlyWhen (s.evqV = false ∧ s.st = .readChecksum) <|
    if s.checksumMatches c then execChkMatch c s else execChkMismatch c s

end Sys2Proof.Machine
end

