-- ==== Sys2Proof/Machine/Framing.lean ====
section
/-! DEFINITION. SEEK_START, READ_HEADER and READ_PAYLOAD (40_seek_start.md R81 to R83, 41_header_payload.md R86 to
R88). -/

namespace Sys2Proof.Machine

/-- SEEK.MARKER (40_seek_start.md R81): the marker opens a frame attempt and is folded into the checksum. -/
def execSeekMarker (s : State) : Result :=
  onlyWhen (s.evqV = false ∧ s.st = .seekStart) <|
    .next ((s.setSt .readHeaderType).setAcc s.params.marker)

/-- SEEK.DISCARD (40_seek_start.md R82): any other byte is dropped. -/
def execSeekDiscard (b : Byte) (s : State) : Result :=
  onlyWhen (s.evqV = false ∧ s.st = .seekStart ∧ b ≠ s.params.marker) (.next s)

/-- SEEK.SHORT (40_seek_start.md R83): an empty read while seeking is "try again". -/
def execSeekShort (_data : Byte) (s : State) : Result :=
  onlyWhen (s.evqV = false ∧ s.st = .seekStart) (.next s)

/-- HDR.TYPE (41_header_payload.md R86). -/
def execHdrType (b : Byte) (s : State) : Result :=
  onlyWhen (s.evqV = false ∧ s.st = .readHeaderType) <|
    .next (((s.setType b).setAcc (s.acc ^^^ b)).setSt .readHeaderLen)

/-- HDR.LEN (41_header_payload.md R87): a zero length goes straight to the checksum (R90). -/
def execHdrLen (b : Byte) (s : State) : Result :=
  onlyWhen (s.evqV = false ∧ s.st = .readHeaderLen) <|
    .next ((((s.setLen b).setCnt 0x00).setAcc (s.acc ^^^ b)).setSt
      (if b = 0x00 then .readChecksum else .readPayload))

/-- PAY.BYTE (41_header_payload.md R88): `CNT` is the start-of-step value throughout. `PBUF[255]` does not exist
(20_memory.md R47; log entry 5). -/
def execPayByte (b : Byte) (s : State) : Result :=
  onlyWhen (s.evqV = false ∧ s.st = .readPayload) <|
    if s.cnt.toNat < Config.payloadMax then
      .next ((((s.setPbuf s.cnt.toNat b).setAcc (s.acc ^^^ b)).setCnt (s.cnt + 1)).setSt
        (if s.cnt + 1 = s.len then .readChecksum else .readPayload))
    else .fault .payloadIndex

end Sys2Proof.Machine
end

