-- ==== Sys2Proof/Machine/StreamControl.lean ====
section
/-! DEFINITION. Short reads, stream errors, idle, stall, the event drain, the reserved states and reset
(44_stream_control.md R107 to R113, 30_encoding.md R79, 70_reset_and_hazards.md R129). -/

namespace Sys2Proof.Machine

/-- STALL (44_stream_control.md R111): an event is pending, the symbol is not consumed. -/
def execStall (st : ParseState) (_kind : SymKind) (_data : Byte) (s : State) : Result :=
  onlyWhen (s.evqV = true ∧ s.st = st) (.next s)

/-- RSV.STATE (30_encoding.md R79): "the model has no step". -/
def execRsvState (_st : ParseState) (_kind : SymKind) (_data : Byte) (_s : State) : Result :=
  .fault .reservedState

/-- STOPPED.HOLD (44_stream_control.md R113): the session is over, nothing is consumed. -/
def execStoppedHold (_kind : SymKind) (_data : Byte) (s : State) : Result :=
  onlyWhen (s.evqV = false ∧ s.st = .stopped) (.next s)

/-- IDLE (44_stream_control.md R110): the block waits. -/
def execIdle (st : ParseState) (_data : Byte) (s : State) : Result :=
  onlyWhen (s.evqV = false ∧ s.st = st ∧ st.isLive = true) (.next s)

/-- `STREAM_ERROR{ detail = d }` (44_stream_control.md R109). -/
def streamErrorEvent (d : Byte) : Event := { kind := .streamError, detail := d }

/-- STREAM.ERR (44_stream_control.md R109): the event is raised and the session ends in `STOPPED`. -/
def execStreamErr (st : ParseState) (d : Byte) (s : State) : Result :=
  onlyWhen (s.evqV = false ∧ s.st = st ∧ st.isLive = true) (.next (s.raise (streamErrorEvent d)))

/-- `SHORT_READ_DIAG(ST, CNT)` (44_stream_control.md R108): the field's state code, the bytes its read asked for and
the bytes it received. -/
def shortReadDiag (st : ParseState) (len cnt : Byte) : Event :=
  match st with
  | .readHeaderType => { kind := .shortRead, field := 1, expW := Config.hdrBytes, actW := 0 }
  | .readHeaderLen => { kind := .shortRead, field := 1, expW := Config.hdrBytes, actW := 1 }
  | .readPayload => { kind := .shortRead, field := 3, expW := len, actW := cnt }
  | .readChecksum => { kind := .shortRead, field := 4, expW := 1, actW := 0 }
  | .seekStart | .stopped | .reserved6 | .reserved7 => {}

/-- FIELD.SHORT (44_stream_control.md R107): the frame attempt is abandoned, silently unless `SHORT_READ_EVENT = 1`. -/
def execFieldShort (st : ParseState) (_data : Byte) (s : State) : Result :=
  onlyWhen (s.evqV = false ∧ s.st = st ∧ st.isField = true) <|
    if s.params.shortReadEvent then .next (s.raise (shortReadDiag s.st s.len s.cnt))
    else .next (s.setSt .seekStart)

/-- EV.DRAIN (44_stream_control.md R112): the sink takes the pending event. -/
def execEvDrain (s : State) : Result :=
  onlyWhen (s.evqV = true) (.next s.clearEvent)

/-- RESET (70_reset_and_hazards.md R129). -/
def execReset (s : State) : Result := .next s.resetState

end Sys2Proof.Machine
end

