-- ==== Sys2Proof/Machine/Dispatch.lean ====
section
/-! DEFINITION. One arm for each row of spec/opcode_table.json. -/

namespace Sys2Proof.Machine

def exec (i : Instr) (s : State) : Host.Outcome State Fault Refusal :=
  match i with
  | .stall st kind data => Sys2Proof.Machine.execStall st kind data s
  | .rsvState st kind data => Sys2Proof.Machine.execRsvState st kind data s
  | .stoppedHold kind data => Sys2Proof.Machine.execStoppedHold kind data s
  | .idle st data => Sys2Proof.Machine.execIdle st data s
  | .streamErr st detail => Sys2Proof.Machine.execStreamErr st detail s
  | .seekShort data => Sys2Proof.Machine.execSeekShort data s
  | .fieldShort st data => Sys2Proof.Machine.execFieldShort st data s
  | .seekMarker => Sys2Proof.Machine.execSeekMarker s
  | .seekDiscard b => Sys2Proof.Machine.execSeekDiscard b s
  | .hdrType b => Sys2Proof.Machine.execHdrType b s
  | .hdrLen b => Sys2Proof.Machine.execHdrLen b s
  | .payByte b => Sys2Proof.Machine.execPayByte b s
  | .chkByte c => Sys2Proof.Machine.execChkByte c s
  | .chkMatch c => Sys2Proof.Machine.execChkMatch c s
  | .chkMismatch c => Sys2Proof.Machine.execChkMismatch c s
  | .dispUnknown => Sys2Proof.Machine.execDispUnknown s
  | .dispMalformed => Sys2Proof.Machine.execDispMalformed s
  | .dispTemperature => Sys2Proof.Machine.execDispTemperature s
  | .dispHumidity => Sys2Proof.Machine.execDispHumidity s
  | .dispExt => Sys2Proof.Machine.execDispExt s
  | .evDrain => Sys2Proof.Machine.execEvDrain s
  | .reset => Sys2Proof.Machine.execReset s

end Sys2Proof.Machine
end

