-- ==== Sys2Proof/Machine/Stepping.lean ====
section
/-! DEFINITION. What one step does (44_stream_control.md R114), and the placing of a decode word. -/

namespace Sys2Proof.Machine

/-- The operation a step's decode word selects (30_encoding.md R76). -/
def State.selectedOp (s : State) (inp : Input) : Instr :=
  decode s.params.marker (s.decodeWord inp)

/-- A step with `rst = 0` (44_stream_control.md R114): the selected row, reading the start-of-step state, and beside
it the drain of an event that was pending at the start. They write disjoint elements (log entry 14). -/
def symbolStep (inp : Input) (s : State) : Result :=
  andThen (exec (s.selectedOp inp) s) fun t =>
    if s.drains inp then exec .evDrain t else .next t

/-- One step (44_stream_control.md R114): the step takes its inputs; `rst = 1` overrides everything
(60_exceptions.md R119). A registry that is not legal is refused (10_state.md R29; log entry 7). -/
def oneStep (s : State) : Result :=
  if s.params.legal then
    if s.nextInput.rst then exec .reset s.takeInput
    else symbolStep s.nextInput s.takeInput
  else .refused .illegalRegistry

/-- The state whose next step has the decode word `v` (30_encoding.md R71): `EVQ.v` and `ST` are the word's, and the
environment drives the word's symbol with `rst = 0` and `ev_ready = 0` in the next step (log entry 1). -/
def State.placeWord (s : State) (v : DecodeWord) : State :=
  { s with
    evqV := v.evqV
    st := v.st
    inputs := { rst := false, inKind := v.kind, inData := v.data, evReady := false } :: s.inputs }

end Sys2Proof.Machine
end

