-- ==== Sys2Proof/Machine/Step.lean ====
section
/-! DEFINITION. The step and the placing of a table word, under the names the host uses. -/

namespace Sys2Proof.Machine

/-- One step (44_stream_control.md R114). -/
def step (s : State) : Host.Outcome State Fault Refusal := oneStep s

/-- The state whose next step runs the decode word that the low bits of a table word are (log entries 1 and 12). -/
def State.withFetchWord (s : State) (nbits w : Nat) : State := s.placeWord (BitVec.ofNat 14 (w % 2 ^ nbits))

end Sys2Proof.Machine
end

