-- ==== Sys2Proof/Machine/Frame.lean ====
section
/-! DEFINITION. The wire frame (30_encoding.md R61 to R63): what a sender puts on the stream. -/

namespace Sys2Proof.Machine

/-- The bytes of a frame attempt with the header `t`, `n`, a payload and a checksum byte, in wire order
(30_encoding.md R61). -/
def attemptBytes (marker t n : Byte) (p : List Byte) (c : Byte) : List Byte :=
  [marker, t, n] ++ p ++ [c]

/-- The frame `FRAME t, p` (30_encoding.md R61, R63, R80): `data_len` is the payload's length and the checksum the one
of R63. For payloads of at most 255 bytes. -/
def frameBytes (marker t : Byte) (p : List Byte) : List Byte :=
  attemptBytes marker t (BitVec.ofNat 8 p.length) p (checksum marker t (BitVec.ofNat 8 p.length) p)

/-- The inputs deliver the bytes in consecutive steps, one `BYTE` symbol a step, without a reset (00_scope.md R15,
20_memory.md R54); `ev_ready` is free. -/
def delivers : List Input → List Byte → Bool
  | [], [] => true
  | i :: is, b :: bs => !i.rst && i.inKind == .byte && i.inData == b && delivers is bs
  | [], _ :: _ => false
  | _ :: _, [] => false

end Sys2Proof.Machine
end

