-- ==== Sys2Proof/Machine/Ports.lean ====
section
/-! DEFINITION. The output ports (10_state.md R31, R33 to R37): functions of the start-of-step state and of `pl_addr`
only (R36). Where the spec leaves a port's value open it is a free value, fresh each step. -/

namespace Sys2Proof.Machine

/-- `need` (10_state.md R34): the bytes the current field still needs. The reserved states have no row there (log
entry 11). -/
def State.need (s : State) : Byte :=
  match s.st with
  | .seekStart => 1
  | .readHeaderType => Config.hdrBytes
  | .readHeaderLen => 1
  | .readPayload => s.len - s.cnt
  | .readChecksum => 1
  | .stopped => 0
  | .reserved6 | .reserved7 => Config.freeNeed s.tick

/-- The `ev_*` ports show the fields of a record (10_state.md R35). -/
def eventPorts (e : Event) : EvPorts :=
  { evKind := e.kind.code, evType := e.type, evLen := e.len, evValue := e.value, evRecv := e.recv, evCalc := e.calcd,
    evExpW := e.expW, evActW := e.actW, evField := e.field, evDetail := e.detail }

/-- The `ev_*` ports: "their value is unspecified when `EVQ.v = 0`" (10_state.md R35). -/
def State.evPorts (s : State) : EvPorts :=
  if s.evqV then eventPorts s.evq else Config.freeEvPorts s.tick

/-- `pl_data` is specified (10_state.md R35): a valid reading is pending and the address is one of its payload's. -/
abbrev State.plSpecified (s : State) (plAddr : Byte) : Prop :=
  s.evqV = true ∧ s.evq.kind = .validReading ∧ plAddr.toNat < s.evq.len.toNat

/-- `pl_data = PBUF[pl_addr]` where it is specified, any byte elsewhere (10_state.md R35, 20_memory.md R47); any byte
too for an unwritten entry, which no reachable state shows there (log entry 10). -/
def State.plData (s : State) (plAddr : Byte) : Byte :=
  if s.plSpecified plAddr then (s.pbuf.read plAddr.toNat).getD (Config.freePlData s.tick plAddr)
  else Config.freePlData s.tick plAddr

/-- The output ports of 10_state.md R31. -/
structure Outputs where
  inReady : Bool
  need    : Byte
  state   : BitVec 3
  evValid : Bool
  ev      : EvPorts
  plData  : Byte
  deriving DecidableEq, Repr

/-- The outputs of a step: functions of its start state and of `pl_addr` (10_state.md R36); `state = ST` (R37) and
`ev_valid = EVQ.v` (R35). -/
def State.outputs (s : State) (plAddr : Byte) : Outputs :=
  { inReady := s.inReady, need := s.need, state := s.st.code, evValid := s.evqV, ev := s.evPorts,
    plData := s.plData plAddr }

/-- What the sink reads beside the ports of a valid reading (10_state.md R35, 30_encoding.md R75): the `name` and
`unit` of `REGISTRY[ev_type]`. -/
def State.readingNameUnit (s : State) : Option (String × String) :=
  match s.params.registry.find s.evq.type with
  | some d => if s.evqV = true ∧ s.evq.kind = .validReading then some (d.name, d.unit) else none
  | none => none

end Sys2Proof.Machine
end

