-- ==== Sys2Proof/Safety.lean ====
section
/-! DEFINITION. What a safe run is, in the terms claims use: the invariant of reachable states (10_state.md R40 to R43,
30_encoding.md R75, 60_exceptions.md R115, R121), the progress measure of a frame attempt (70_reset_and_hazards.md
R141), and runs. -/

namespace Sys2Proof.Machine

/-- The record has the form 30_encoding.md R75 gives its kind, every field not listed being 0, and the relation of its
fields that 60_exceptions.md R115 names as its cause. -/
def eventForm (ps : Params) (e : Event) : Prop :=
  match e.kind with
  | .validReading =>
    e = readingEvent e.type e.len e.value e.payload ∧ e.payload.length = e.len.toNat ∧
      ∃ d, ps.registry.find e.type = some d ∧ e.len = d.width ∧
        decodeValue d.kind e.type e.payload = some e.value
  | .checksumMismatch => e = mismatchEvent e.recv e.calcd ∧ e.recv ≠ e.calcd
  | .unknownSensorType => e = unknownTypeEvent e.type ∧ ps.registry.find e.type = none
  | .malformedPayload =>
    e = malformedEvent e.type e.expW e.actW ∧ e.actW ≠ e.expW ∧
      ∃ d, ps.registry.find e.type = some d ∧ d.width = e.expW
  | .streamError => e = streamErrorEvent e.detail
  | .shortRead =>
    ps.shortReadEvent = true ∧
      e = { kind := .shortRead, field := e.field, expW := e.expW, actW := e.actW } ∧
      (e.field = 1 ∨ e.field = 3 ∨ e.field = 4) ∧ e.actW.toNat < e.expW.toNat
  | .reserved6 => False
  | .reserved7 => False

/-- What the registers hold in the middle of a frame (10_state.md R41, R42). -/
def frameProgress (s : State) : Prop :=
  match s.st with
  | .readHeaderType => s.acc = s.params.marker
  | .readHeaderLen => s.acc = s.params.marker ^^^ s.type
  | .readPayload =>
    s.cnt.toNat < s.len.toNat ∧
      ∃ p, s.pbuf.readRange 0 s.cnt.toNat = some p ∧ s.acc = checksum s.params.marker s.type s.len p
  | .readChecksum =>
    s.cnt = s.len ∧ ∃ p, s.payload = some p ∧ s.acc = checksum s.params.marker s.type s.len p
  | .seekStart => True
  | .stopped => True
  | .reserved6 => False
  | .reserved7 => False

/-- The invariant of every state a run from reset reaches. -/
structure Inv (s : State) : Prop where
  /-- The registry is legal (10_state.md R29). -/
  legal : s.params.legal = true
  /-- The payload buffer has its canonical form and no entry past 254 (20_memory.md R47). -/
  pbufWf : s.pbuf.wf
  /-- `ACC`, `CNT` and `PBUF` agree with the frame read so far, and `ST` is no reserved code (10_state.md R41 to
  R43). -/
  progress : frameProgress s
  /-- A pending event has its kind's form (30_encoding.md R75) and `ST` is where its kind leaves it
  (60_exceptions.md R121). -/
  pending : s.evqV = true → eventForm s.params s.evq ∧ s.st = stateAfter s.evq.kind
  /-- The payload of a pending reading is in `PBUF` (10_state.md R35). -/
  pendingPayload : s.evqV = true → s.evq.kind = .validReading →
    s.pbuf.readRange 0 s.evq.len.toNat = some s.evq.payload

/-- The most symbols the current frame attempt can still consume before it ends (70_reset_and_hazards.md R141). -/
def State.remaining (s : State) : Nat :=
  match s.st with
  | .readHeaderType => 2 + 255 + 1
  | .readHeaderLen => 1 + 255 + 1
  | .readPayload => (s.len.toNat - s.cnt.toNat) + 1
  | .readChecksum => 1
  | .seekStart | .stopped | .reserved6 | .reserved7 => 0

/-- `k` steps of the machine. -/
def run (k : Nat) (s : State) : Result := Sys2Proof.core.run k s

end Sys2Proof.Machine
end

