-- ==== Sys2Proof/Certificates/Slice0/Obligations.lean ====
section
/-! DEFINITION. The statements for the provers, by theme: encodings, the step, the operations, the ports, the whole
machine, frames. -/

open Sys2Proof Sys2Proof.Machine

/-! ### Encodings -/

/-- Decoding the word of a well-formed operation that has a word of its own gives that operation back, with every
operand (30_encoding.md R76). -/
def Obligations.DecodeOfEncodeIsTheOperation : Prop :=
  ∀ (marker : Byte) (i : Instr) (w : DecodeWord),
    i.wellFormed marker = true → i.hasOwnWord = true → encode marker i = some w → decode marker w = i

/-- The decode table is total, every word decodes to a well-formed row, and the word is that row's word
(30_encoding.md R76). -/
def Obligations.EncodeOfDecodeIsTheWord : Prop :=
  ∀ (marker : Byte) (w : DecodeWord),
    (decode marker w).wellFormed marker = true ∧ (decode marker w).hasOwnWord = true ∧
      encode marker (decode marker w) = some w

/-- The decoder answers the first row of the mask and match table of 30_encoding.md R76, for every marker. -/
def Obligations.DecodeIsFirstMatchingRow : Prop :=
  ∀ (marker : Byte) (w : DecodeWord),
    firstMatch w (decodeTable marker) = some (decode marker w).mnemonic

/-- Decode words of the spec's traces (95_test_vectors.md, P1 to P3) decode to the rows the traces give. -/
def Obligations.DecodeWordsOfTheTraces : Prop :=
  decode 0xAA 0x01AA = .seekMarker ∧ decode 0xAA 0x0502 = .hdrType 0x02 ∧ decode 0xAA 0x0904 = .hdrLen 0x04 ∧
  decode 0xAA 0x0DD2 = .payByte 0xD2 ∧ decode 0xAA 0x1178 = .chkByte 0x78 ∧
  decode 0xAA 0x0178 = .seekDiscard 0x78 ∧ decode 0xAA 0x0200 = .seekShort 0x00 ∧
  decode 0xAA 0x0E00 = .fieldShort .readPayload 0x00 ∧ decode 0xAA 0x0302 = .streamErr .seekStart 0x02 ∧
  decode 0xAA 0x0C00 = .idle .readPayload 0x00 ∧ decode 0xAA 0x35AA = .stall .stopped .byte 0xAA ∧
  decode 0xAA 0x15AA = .stoppedHold .byte 0xAA ∧ decode 0xAA 0x1800 = .rsvState .reserved6 .idle 0x00

/-! ### The step -/

/-- A step with `rst = 0` runs the operation its decode word selects on the start-of-step state, and drains beside it
an event that was pending at the start when `ev_ready = 1`; where the operation stops, the step stops
(44_stream_control.md R114). `takeInput` moves the schedule on (the model's own fields, log entries 1 and 3). -/
def Obligations.StepRunsTheDecodedOperation : Prop :=
  ∀ (s : State) (inp : Input) (i : Instr),
    s.params.legal = true → s.nextInput = inp → inp.rst = false →
    decode s.params.marker (mkDecodeWord s.evqV s.st inp.inKind inp.inData) = i →
    (∀ t, exec i s.takeInput = .next t →
      step s = if s.evqV = true ∧ inp.evReady = true then .next { t with evqV := false } else .next t) ∧
    (∀ f, exec i s.takeInput = .fault f → step s = .fault f) ∧
    (∀ r, exec i s.takeInput = .refused r → step s = .refused r)

/-- A step with `rst = 1` gives the reset state from any state, whatever symbol and `ev_ready` come with it; `PBUF`
keeps its contents (44_stream_control.md R114, 70_reset_and_hazards.md R129). What `params`, `inputs` and `tick` become is
the model's (log entries 1, 2 and 3), and so is the empty payload list in the record (log entry 19). -/
def Obligations.ResetStepOverridesTheRest : Prop :=
  ∀ s : State, s.params.legal = true → s.nextInput.rst = true →
    step s = .next { st := .seekStart, type := 0, len := 0, cnt := 0, acc := 0, pbuf := s.pbuf, evq := {},
                     evqV := false, params := s.params, inputs := s.inputs.tail, tick := s.tick + 1 }

/-- The model refuses a `REGISTRY` that breaks 10_state.md R29. -/
def Obligations.IllegalRegistryIsRefused : Prop :=
  ∀ s : State,
    (¬ (s.params.registry.map Prod.fst).Nodup ∨
      ∃ e ∈ s.params.registry, (e.2.kind = .f32le ∧ e.2.width ≠ 4) ∨ (e.2.kind = .u16le ∧ e.2.width ≠ 2)) →
    step s = .refused .illegalRegistry

/-! ### SEEK_START -/

/-- SEEK.MARKER (40_seek_start.md R81): `BYTE(MARKER)` in `SEEK_START` selects it; `ST` and `ACC` are written and
nothing else. -/
def Obligations.SeekMarkerStartsAFrame : Prop :=
  (∀ marker : Byte, decode marker (mkDecodeWord false .seekStart .byte marker) = .seekMarker) ∧
  ∀ s : State, s.evqV = false → s.st = .seekStart →
    exec .seekMarker s = .next { s with st := .readHeaderType, acc := s.params.marker }

/-- SEEK.DISCARD (40_seek_start.md R82): any other byte in `SEEK_START` selects it; nothing changes. -/
def Obligations.SeekDiscardChangesNothing : Prop :=
  (∀ marker b : Byte, b ≠ marker → decode marker (mkDecodeWord false .seekStart .byte b) = .seekDiscard b) ∧
  ∀ (s : State) (b : Byte), s.evqV = false → s.st = .seekStart → b ≠ s.params.marker →
    exec (.seekDiscard b) s = .next s

/-- SEEK.SHORT (40_seek_start.md R83): `SHORT` in `SEEK_START` selects it; nothing changes and no event is raised. -/
def Obligations.SeekShortChangesNothing : Prop :=
  (∀ marker d : Byte, decode marker (mkDecodeWord false .seekStart .short d) = .seekShort d) ∧
  ∀ (s : State) (d : Byte), s.evqV = false → s.st = .seekStart → exec (.seekShort d) s = .next s

/-! ### Header and payload -/

/-- HDR.TYPE (41_header_payload.md R86). -/
def Obligations.HdrTypeStoresTheType : Prop :=
  (∀ marker b : Byte, decode marker (mkDecodeWord false .readHeaderType .byte b) = .hdrType b) ∧
  ∀ (s : State) (b : Byte), s.evqV = false → s.st = .readHeaderType →
    exec (.hdrType b) s = .next { s with type := b, acc := s.acc ^^^ b, st := .readHeaderLen }

/-- HDR.LEN (41_header_payload.md R87, R90): `b = 0` goes straight to the checksum. -/
def Obligations.HdrLenStoresTheLength : Prop :=
  (∀ marker b : Byte, decode marker (mkDecodeWord false .readHeaderLen .byte b) = .hdrLen b) ∧
  ∀ (s : State) (b : Byte), s.evqV = false → s.st = .readHeaderLen →
    (b = 0 → exec (.hdrLen b) s = .next { s with len := 0, cnt := 0, acc := s.acc ^^^ b, st := .readChecksum }) ∧
    (b ≠ 0 → exec (.hdrLen b) s = .next { s with len := b, cnt := 0, acc := s.acc ^^^ b, st := .readPayload })

/-- PAY.BYTE (41_header_payload.md R88): the byte lands in `PBUF[CNT]`, every other entry reads as before, `ACC`, `CNT`
and `ST` are written and nothing else. -/
def Obligations.PayByteStoresTheByte : Prop :=
  (∀ marker b : Byte, decode marker (mkDecodeWord false .readPayload .byte b) = .payByte b) ∧
  ∀ (s : State) (b : Byte), s.evqV = false → s.st = .readPayload → s.cnt.toNat < 255 →
    ∃ t, exec (.payByte b) s = .next t ∧
      t.pbuf.read s.cnt.toNat = some b ∧
      (∀ j : Nat, j ≠ s.cnt.toNat → t.pbuf.read j = s.pbuf.read j) ∧
      t.acc = s.acc ^^^ b ∧ t.cnt = s.cnt + 1 ∧
      (s.cnt + 1 = s.len → t.st = .readChecksum) ∧ (s.cnt + 1 ≠ s.len → t.st = .readPayload) ∧
      t.type = s.type ∧ t.len = s.len ∧ t.evq = s.evq ∧ t.evqV = s.evqV ∧
      t.params = s.params ∧ t.inputs = s.inputs ∧ t.tick = s.tick

/-- PAY.BYTE with `CNT = 255` stops: `PBUF[255]` does not exist (20_memory.md R47). The stop is the model's reading
(log entry 5); 10_state.md R42 says that no reachable state meets it. -/
def Obligations.PayByteHasNoEntry255 : Prop :=
  ∀ (s : State) (b : Byte), s.evqV = false → s.st = .readPayload → s.cnt = 255 →
    exec (.payByte b) s = .fault .payloadIndex

/-! ### The checksum -/

/-- CHK.BYTE (42_checksum.md R93): the received byte decides between CHK.MATCH and CHK.MISMATCH. -/
def Obligations.ChkByteComparesWithAcc : Prop :=
  ∀ (s : State) (c : Byte), s.evqV = false → s.st = .readChecksum →
    (c = s.acc → exec (.chkByte c) s = exec (.chkMatch c) s) ∧
    (c ≠ s.acc → exec (.chkByte c) s = exec (.chkMismatch c) s)

/-- CHK.BYTE completes: with a legal registry and the frame's payload written, some next state is answered with exactly
one event pending and `ST = SEEK_START`; `TYPE`, `LEN`, `CNT`, `ACC` and `PBUF` are not written (42_checksum.md R93). -/
def Obligations.ChkByteRaisesOneEvent : Prop :=
  (∀ marker c : Byte, decode marker (mkDecodeWord false .readChecksum .byte c) = .chkByte c) ∧
  ∀ (s : State) (c : Byte) (p : List Byte), s.params.legal = true → s.evqV = false → s.st = .readChecksum →
    s.payload = some p →
    ∃ e, exec (.chkByte c) s = .next { s with st := .seekStart, evq := e, evqV := true } ∧
      (c ≠ s.acc → e = { kind := .checksumMismatch, recv := c, calcd := s.acc }) ∧
      (c = s.acc → dispatch s.params s.type s.len p = some e)

/-- CHK.MATCH (42_checksum.md R94): when `c = ACC` the event is `DISPATCH(TYPE, LEN, PBUF[0..LEN-1])`, of one of three
kinds. -/
def Obligations.ChkMatchEmitsTheDispatch : Prop :=
  ∀ (s : State) (c : Byte) (p : List Byte) (e : Event), s.evqV = false → s.st = .readChecksum → c = s.acc →
    s.payload = some p → dispatch s.params s.type s.len p = some e →
    exec (.chkMatch c) s = .next { s with st := .seekStart, evq := e, evqV := true } ∧
      (e.kind = .validReading ∨ e.kind = .unknownSensorType ∨ e.kind = .malformedPayload)

/-- CHK.MATCH performs the row of 30_encoding.md R77, also where the payload need not be read. That a DISP row's meaning
is the whole step's effect, so that the two are equal, is the model's (log entry 13). -/
def Obligations.ChkMatchPerformsTheSelectedRow : Prop :=
  ∀ (s : State) (c : Byte), s.evqV = false → s.st = .readChecksum → c = s.acc →
    (s.params.registry.find s.type = none → exec (.chkMatch c) s = exec .dispUnknown s) ∧
    ∀ d, s.params.registry.find s.type = some d →
      (s.len ≠ d.width → exec (.chkMatch c) s = exec .dispMalformed s) ∧
      (s.len = d.width → d.kind = .f32le → s.len = 4 → exec (.chkMatch c) s = exec .dispTemperature s) ∧
      (s.len = d.width → d.kind = .u16le → s.len = 2 → exec (.chkMatch c) s = exec .dispHumidity s) ∧
      (s.len = d.width → d.kind = .ext → exec (.chkMatch c) s = exec .dispExt s)

/-- CHK.MISMATCH (42_checksum.md R95): the event carries the received and the calculated checksum. -/
def Obligations.ChkMismatchReportsBoth : Prop :=
  ∀ (s : State) (c : Byte), s.evqV = false → s.st = .readChecksum → c ≠ s.acc →
    exec (.chkMismatch c) s =
      .next { s with st := .seekStart, evq := { kind := .checksumMismatch, recv := c, calcd := s.acc }, evqV := true }

/-! ### The dispatcher -/

/-- With a legal registry DISPATCH is total, and gives one of three kinds (43_dispatch.md R97, 42_checksum.md R94). -/
def Obligations.DispatchIsTotal : Prop :=
  ∀ (ps : Params) (t n : Byte) (p : List Byte), ps.legal = true → p.length = n.toNat →
    ∃ e, dispatch ps t n p = some e ∧ e.type = t ∧
      (e.kind = .validReading ∨ e.kind = .unknownSensorType ∨ e.kind = .malformedPayload)

/-- DISP.UNKNOWN (43_dispatch.md R99): no descriptor, whatever the length and the payload. That the row
itself writes `EVQ`, `EVQ.v` and `ST` is the model's (log entry 13). -/
def Obligations.DispUnknownReportsTheType : Prop :=
  ∀ s : State, s.evqV = false → s.st = .readChecksum → s.params.registry.find s.type = none →
    exec .dispUnknown s =
      .next { s with st := .seekStart, evq := { kind := .unknownSensorType, type := s.type }, evqV := true }

/-- DISP.MALFORMED (43_dispatch.md R100): the event carries the descriptor's width and the frame's length. That the row
itself writes `EVQ`, `EVQ.v` and `ST` is the model's (log entry 13). -/
def Obligations.DispMalformedReportsBothWidths : Prop :=
  ∀ (s : State) (d : Descriptor), s.evqV = false → s.st = .readChecksum →
    s.params.registry.find s.type = some d → s.len ≠ d.width →
    exec .dispMalformed s =
      .next { s with st := .seekStart, evqV := true,
                     evq := { kind := .malformedPayload, type := s.type, expW := d.width, actW := s.len } }

/-- DISP.TEMPERATURE (43_dispatch.md R102): the four payload bytes, the first least significant, are the value. That the row
itself writes `EVQ`, `EVQ.v` and `ST` is the model's (log entry 13). -/
def Obligations.DispTemperatureEmitsThePattern : Prop :=
  ∀ (s : State) (d : Descriptor) (p0 p1 p2 p3 : Byte), s.evqV = false → s.st = .readChecksum →
    s.params.registry.find s.type = some d → d.kind = .f32le → d.width = 4 → s.len = 4 →
    s.pbuf.read 0 = some p0 → s.pbuf.read 1 = some p1 → s.pbuf.read 2 = some p2 → s.pbuf.read 3 = some p3 →
    exec .dispTemperature s =
      .next { s with st := .seekStart, evqV := true,
                     evq := { kind := .validReading, type := s.type, len := 4,
                              value := p3 ++ p2 ++ p1 ++ p0, payload := [p0, p1, p2, p3] } }

/-- DISP.HUMIDITY (43_dispatch.md R103): the two payload bytes, little-endian and zero-extended, are the value. That the row
itself writes `EVQ`, `EVQ.v` and `ST` is the model's (log entry 13). -/
def Obligations.DispHumidityEmitsTheCount : Prop :=
  ∀ (s : State) (d : Descriptor) (p0 p1 : Byte), s.evqV = false → s.st = .readChecksum →
    s.params.registry.find s.type = some d → d.kind = .u16le → d.width = 2 → s.len = 2 →
    s.pbuf.read 0 = some p0 → s.pbuf.read 1 = some p1 →
    exec .dispHumidity s =
      .next { s with st := .seekStart, evqV := true,
                     evq := { kind := .validReading, type := s.type, len := 2,
                              value := 0#16 ++ (p1 ++ p0), payload := [p0, p1] } }

/-- DISP.EXT (43_dispatch.md R104): the value is `EXT_DECODE(t, p)`, whatever function that is. That the row
itself writes `EVQ`, `EVQ.v` and `ST` is the model's (log entry 13). -/
def Obligations.DispExtEmitsExtDecode : Prop :=
  ∀ (s : State) (d : Descriptor) (p : List Byte), s.evqV = false → s.st = .readChecksum →
    s.params.registry.find s.type = some d → d.kind = .ext → s.len = d.width → s.payload = some p →
    exec .dispExt s =
      .next { s with st := .seekStart, evqV := true,
                     evq := { kind := .validReading, type := s.type, len := s.len,
                              value := Config.extDecode s.type p, payload := p } }

/-- A dispatch that reads an unwritten `PBUF` entry is a model fault (10_state.md R40). -/
def Obligations.UnwrittenPayloadIsAFault : Prop :=
  ∀ (s : State) (c : Byte) (d : Descriptor) (j : Nat), s.params.legal = true → s.evqV = false → s.st = .readChecksum →
    c = s.acc → s.params.registry.find s.type = some d → s.len = d.width →
    j < s.len.toNat → s.pbuf.read j = none →
    exec (.chkByte c) s = .fault .unwrittenPayload

/-! ### Stream control -/

/-- STALL (44_stream_control.md R111): while an event is pending every symbol selects it, in every state; the symbol
changes nothing and `in_ready = 0`. -/
def Obligations.StallChangesNothing : Prop :=
  (∀ (marker : Byte) (st : ParseState) (kind : SymKind) (d : Byte),
    decode marker (mkDecodeWord true st kind d) = .stall st kind d) ∧
  ∀ (s : State) (kind : SymKind) (d : Byte), s.evqV = true →
    exec (.stall s.st kind d) s = .next s ∧ s.inReady = false

/-- STOPPED.HOLD (44_stream_control.md R113): in `STOPPED` every symbol selects it and changes nothing, and
`in_ready = 0`. -/
def Obligations.StoppedHoldChangesNothing : Prop :=
  (∀ (marker : Byte) (kind : SymKind) (d : Byte),
    decode marker (mkDecodeWord false .stopped kind d) = .stoppedHold kind d) ∧
  ∀ (s : State) (kind : SymKind) (d : Byte), s.evqV = false → s.st = .stopped →
    exec (.stoppedHold kind d) s = .next s ∧ s.inReady = false

/-- IDLE (44_stream_control.md R110): in the states 0 to 4 it changes nothing. -/
def Obligations.IdleChangesNothing : Prop :=
  (∀ (marker : Byte) (st : ParseState) (d : Byte), st.code.toNat ≤ 4 →
    decode marker (mkDecodeWord false st .idle d) = .idle st d) ∧
  ∀ (s : State) (d : Byte), s.evqV = false → s.st.code.toNat ≤ 4 → exec (.idle s.st d) s = .next s

/-- STREAM.ERR (44_stream_control.md R109): in the states 0 to 4 `ERR(d)` raises `STREAM_ERROR{detail = d}` and stops
the session; the partial frame's registers keep their values. -/
def Obligations.StreamErrStopsTheSession : Prop :=
  (∀ (marker : Byte) (st : ParseState) (d : Byte), st.code.toNat ≤ 4 →
    decode marker (mkDecodeWord false st .err d) = .streamErr st d) ∧
  ∀ (s : State) (d : Byte), s.evqV = false → s.st.code.toNat ≤ 4 →
    exec (.streamErr s.st d) s =
      .next { s with st := .stopped, evq := { kind := .streamError, detail := d }, evqV := true }

/-- FIELD.SHORT (44_stream_control.md R107, R108): `SHORT` in the states 1 to 4 abandons the frame, silently when
`SHORT_READ_EVENT = 0` and with the diagnostic of R108 when it is 1. -/
def Obligations.FieldShortAbandonsTheFrame : Prop :=
  (∀ (marker : Byte) (st : ParseState) (d : Byte), 1 ≤ st.code.toNat → st.code.toNat ≤ 4 →
    decode marker (mkDecodeWord false st .short d) = .fieldShort st d) ∧
  ∀ (s : State) (d : Byte), s.evqV = false → 1 ≤ s.st.code.toNat → s.st.code.toNat ≤ 4 →
    (s.params.shortReadEvent = false → exec (.fieldShort s.st d) s = .next { s with st := .seekStart }) ∧
    (s.params.shortReadEvent = true →
      ∃ e, exec (.fieldShort s.st d) s = .next { s with st := .seekStart, evq := e, evqV := true } ∧
        (s.st = .readHeaderType → e = { kind := .shortRead, field := 1, expW := 2, actW := 0 }) ∧
        (s.st = .readHeaderLen → e = { kind := .shortRead, field := 1, expW := 2, actW := 1 }) ∧
        (s.st = .readPayload → e = { kind := .shortRead, field := 3, expW := s.len, actW := s.cnt }) ∧
        (s.st = .readChecksum → e = { kind := .shortRead, field := 4, expW := 1, actW := 0 }))

/-- EV.DRAIN (44_stream_control.md R112): `EVQ.v` is cleared, the other `EVQ` fields and everything else keep their
values; with `EVQ.v = 0`, `ev_ready` has no effect on a step. -/
def Obligations.EvDrainClearsTheValidBit : Prop :=
  (∀ s : State, s.evqV = true → exec .evDrain s = .next { s with evqV := false }) ∧
  ∀ (s : State) (a b : Input) (rest : List Input), s.evqV = false → a.rst = b.rst → a.inKind = b.inKind →
    a.inData = b.inData → step { s with inputs := a :: rest } = step { s with inputs := b :: rest }

/-- RSV.STATE (30_encoding.md R79): in state 6 or 7 with no event pending the step is the fault ReservedState. That the
operation faults in the other states too, where no step selects it, is the model's (log entry 6). -/
def Obligations.ReservedStateIsAFault : Prop :=
  (∀ (st : ParseState) (kind : SymKind) (d : Byte) (s : State), exec (.rsvState st kind d) s = .fault .reservedState) ∧
  ∀ s : State, s.params.legal = true → s.evqV = false → (s.st = .reserved6 ∨ s.st = .reserved7) →
    s.nextInput.rst = false → step s = .fault .reservedState

/-- RESET (70_reset_and_hazards.md R129): the values of 10_state.md R39; every `PBUF` entry reads as before. That the
record's payload list is empty is the model's (log entry 19). -/
def Obligations.ResetWritesTheResetValues : Prop :=
  ∀ s : State, ∃ t, exec .reset s = .next t ∧
    t.st = .seekStart ∧ t.type = 0x00 ∧ t.len = 0x00 ∧ t.cnt = 0x00 ∧ t.acc = 0x00 ∧ t.evqV = false ∧ t.evq = {} ∧
    (∀ j : Nat, t.pbuf.read j = s.pbuf.read j) ∧ t.params = s.params

/-- The state after the first reset (10_state.md R39): its registers, the event register, and every `PBUF` entry
unwritten. That the record's payload list is empty is the model's (log entry 19). -/
def Obligations.FirstResetState : Prop :=
  State.reset.st = .seekStart ∧ State.reset.type = 0x00 ∧ State.reset.len = 0x00 ∧ State.reset.cnt = 0x00 ∧
  State.reset.acc = 0x00 ∧ State.reset.evqV = false ∧ State.reset.evq = {} ∧
  ∀ j : Nat, State.reset.pbuf.read j = none

/-- This hardware's registry (43_dispatch.md R98): the two built-in entries and no other; it is legal. -/
def Obligations.BuiltinRegistry : Prop :=
  Params.thisHardware.legal = true ∧
  Params.thisHardware.registry.find 0x01 =
    some { name := "TEMPERATURE", width := 4, unit := "°C", kind := .f32le } ∧
  Params.thisHardware.registry.find 0x02 =
    some { name := "HUMIDITY", width := 2, unit := "% relative humidity", kind := .u16le } ∧
  ∀ t : Byte, t ≠ 0x01 → t ≠ 0x02 → Params.thisHardware.registry.find t = none

/-! ### The ports -/

/-- `in_ready`, `need`, `state` and `ev_valid` (10_state.md R33, R34, R35, R37); while an event waits, the `ev_*` ports
show its fields (R35). -/
def Obligations.PortsShowTheState : Prop :=
  ∀ (s : State) (a : Byte),
    ((s.outputs a).inReady = true ↔ s.evqV = false ∧ s.st ≠ .stopped ∧ s.st.code.toNat ≤ 4) ∧
    (s.outputs a).state = s.st.code ∧ (s.outputs a).evValid = s.evqV ∧
    (s.st = .seekStart → (s.outputs a).need = 1) ∧ (s.st = .readHeaderType → (s.outputs a).need = 2) ∧
    (s.st = .readHeaderLen → (s.outputs a).need = 1) ∧ (s.st = .readPayload → (s.outputs a).need = s.len - s.cnt) ∧
    (s.st = .readChecksum → (s.outputs a).need = 1) ∧ (s.st = .stopped → (s.outputs a).need = 0) ∧
    (s.evqV = true →
      (s.outputs a).ev =
        { evKind := s.evq.kind.code, evType := s.evq.type, evLen := s.evq.len, evValue := s.evq.value,
          evRecv := s.evq.recv, evCalc := s.evq.calcd, evExpW := s.evq.expW, evActW := s.evq.actW,
          evField := s.evq.field, evDetail := s.evq.detail })

/-- In a reachable state `pl_data` shows byte `pl_addr` of the pending reading's payload (10_state.md R35): the read
port and the payload inside the record are the same bytes. -/
def Obligations.PayloadPortShowsThePayload : Prop :=
  ∀ (s : State) (a : Byte), Inv s → s.evqV = true → s.evq.kind = .validReading → a.toNat < s.evq.len.toNat →
    s.evq.payload[a.toNat]? = some (s.outputs a).plData

/-- "Rows 1 to 3 are exactly `in_ready = 0`" (30_encoding.md R76). -/
def Obligations.NotReadyIsRowsOneToThree : Prop :=
  ∀ (s : State) (inp : Input),
    s.inReady = false ↔
      (s.selectedOp inp = .stall s.st inp.inKind inp.inData ∨ s.selectedOp inp = .rsvState s.st inp.inKind inp.inData ∨
        s.selectedOp inp = .stoppedHold inp.inKind inp.inData)

/-! ### The whole machine -/

/-- The invariant holds after reset. -/
def Obligations.InvHoldsAfterReset : Prop := Inv State.reset

/-- Every step keeps the invariant: `ACC` is the checksum of what was read (10_state.md R41), `CNT < LEN` in the payload
and `CNT = LEN` at the checksum with every entry written (R42), no reserved code (R43), a legal event form
(30_encoding.md R75), the payload buffer in canonical form. -/
def Obligations.EveryStepKeepsInv : Prop :=
  ∀ s t : State, Inv s → step s = .next t → Inv t

/-- From a state that meets the invariant the next step answers a next state, whatever the inputs: no reachable state
meets the reserved codes or reads an unwritten entry (10_state.md R40, R43). -/
def Obligations.NoReachableStepStops : Prop :=
  ∀ s : State, Inv s → ∃ t, step s = .next t

/-- No step performs an operation that its decode word does not select, and with a legal registry no step is refused.
The refusals are the model's (log entries 6 and 7). -/
def Obligations.NoStepIsRefused : Prop :=
  ∀ s : State, step s ≠ .refused .notSelected ∧ (s.params.legal = true → ∀ r, step s ≠ .refused r)

/-- `TYPE` is written by HDR.TYPE and reset only, `LEN` by HDR.LEN, `CNT` by HDR.LEN and PAY.BYTE, `ACC` by
SEEK.MARKER, HDR.TYPE, HDR.LEN and PAY.BYTE (10_state.md R18 to R22); `PBUF` by PAY.BYTE, not by reset (20_memory.md
R45, R48); no operation writes the parameters or the model's own fields. -/
def Obligations.WritersOfTheDatapath : Prop :=
  ∀ (i : Instr) (s t : State), exec i s = .next t →
    ((∀ b, i ≠ .hdrType b) → i ≠ .reset → t.type = s.type) ∧
    ((∀ b, i ≠ .hdrLen b) → i ≠ .reset → t.len = s.len) ∧
    ((∀ b, i ≠ .hdrLen b) → (∀ b, i ≠ .payByte b) → i ≠ .reset → t.cnt = s.cnt) ∧
    (i ≠ .seekMarker → (∀ b, i ≠ .hdrType b) → (∀ b, i ≠ .hdrLen b) → (∀ b, i ≠ .payByte b) → i ≠ .reset →
      t.acc = s.acc) ∧
    ((∀ b, i ≠ .payByte b) → ∀ j : Nat, t.pbuf.read j = s.pbuf.read j) ∧
    t.params = s.params ∧ t.inputs = s.inputs ∧ t.tick = s.tick

/-- The parameters are constant in a run: no step writes them (10_state.md R28, 70_reset_and_hazards.md R137). -/
def Obligations.NoStepWritesTheParameters : Prop :=
  ∀ s t : State, step s = .next t → t.params = s.params

/-- `PBUF` is written only by a step that consumes a byte in `READ_PAYLOAD`, and only at index `CNT`
(20_memory.md R45). -/
def Obligations.PbufIsWrittenOnlyByPayloadBytes : Prop :=
  ∀ (s t : State) (j : Nat), step s = .next t → t.pbuf.read j ≠ s.pbuf.read j →
    s.nextInput.rst = false ∧ s.nextInput.inKind = .byte ∧ s.evqV = false ∧ s.st = .readPayload ∧
      j = s.cnt.toNat ∧ t.pbuf.read j = some s.nextInput.inData

/-- "Only reset leaves `STOPPED`" (44_stream_control.md R109, R113). -/
def Obligations.OnlyResetLeavesStopped : Prop :=
  ∀ s t : State, s.st = .stopped → step s = .next t → s.nextInput.rst = false → t.st = .stopped

/-- "only StreamError halts the loop" (60_exceptions.md R116): a step into `STOPPED` consumed an `ERR` and leaves its
event pending. -/
def Obligations.OnlyStreamErrorStops : Prop :=
  ∀ s t : State, s.st ≠ .stopped → step s = .next t → t.st = .stopped →
    s.nextInput.rst = false ∧ s.inReady = true ∧ s.nextInput.inKind = .err ∧ t.evqV = true ∧
      t.evq = { kind := .streamError, detail := s.nextInput.inData }

/-- A new event is raised only by a step that consumes a symbol with no event pending (10_state.md R25,
60_exceptions.md R123): so none is overwritten or merged. -/
def Obligations.EventsAreRaisedOnlyWhenNoneWaits : Prop :=
  ∀ s t : State, step s = .next t → s.nextInput.rst = false → (t.evqV = true ∧ s.evqV = false ∨ t.evq ≠ s.evq) →
    s.evqV = false ∧ s.inReady = true ∧ s.nextInput.inKind ≠ .idle ∧ t.evqV = true

/-- A step with an event pending consumes nothing, in every state; the event stays until `ev_ready = 1` takes it
(44_stream_control.md R111, R112). -/
def Obligations.PendingEventWaitsForTheSink : Prop :=
  ∀ s : State, s.params.legal = true → s.evqV = true → s.nextInput.rst = false →
    step s = .next { s with evqV := !s.nextInput.evReady, inputs := s.inputs.tail, tick := s.tick + 1 }

/-- A symbol presented with `in_ready = 0` has no effect (10_state.md R33): two steps that differ in it alone end
alike. -/
def Obligations.UnconsumedSymbolHasNoEffect : Prop :=
  ∀ (s : State) (a b : Input) (rest : List Input), s.inReady = false → a.rst = b.rst → a.evReady = b.evReady →
    step { s with inputs := a :: rest } = step { s with inputs := b :: rest }

/-- "The data bits of `IDLE` and `SHORT` are ignored by every rule" (30_encoding.md R73). -/
def Obligations.DataOfIdleAndShortIsIgnored : Prop :=
  ∀ (s : State) (a b : Input) (rest : List Input), a.rst = b.rst → a.evReady = b.evReady → a.inKind = b.inKind →
    (a.inKind = .idle ∨ a.inKind = .short) →
    step { s with inputs := a :: rest } = step { s with inputs := b :: rest }

/-- Every step's outcome leaves `ST` where 60_exceptions.md R116 says: a step that raises an event ends in `SEEK_START`,
or in `STOPPED` for `STREAM_ERROR`. -/
def Obligations.RaisedEventDecidesTheState : Prop :=
  ∀ s t : State, step s = .next t → s.evqV = false → t.evqV = true →
    (t.evq.kind = .streamError → t.st = .stopped) ∧ (t.evq.kind ≠ .streamError → t.st = .seekStart)

/-! ### Frames -/

/-- A whole frame attempt (42_checksum.md R93 to R95, 43_dispatch.md R97): from `SEEK_START` with no event pending, the
`4 + N` bytes of an attempt take `4 + N` steps and end in `SEEK_START` with the frame in the registers and one event:
the dispatch of the frame when the checksum byte is the frame's checksum, a mismatch with both values when it is not. -/
def Obligations.FrameAttemptOutcome : Prop :=
  ∀ (s : State) (ins rest : List Input) (t n c : Byte) (p : List Byte),
    s.params.legal = true → s.evqV = false → s.st = .seekStart → p.length = n.toNat →
    s.inputs = ins ++ rest → delivers ins (attemptBytes s.params.marker t n p c) = true →
    ∃ u : State, run (4 + n.toNat) s = .next u ∧
      u.st = .seekStart ∧ u.evqV = true ∧ u.inputs = rest ∧ u.type = t ∧ u.len = n ∧ u.payload = some p ∧
      (c = checksum s.params.marker t n p → dispatch s.params t n p = some u.evq) ∧
      (c ≠ checksum s.params.marker t n p →
        u.evq = { kind := .checksumMismatch, recv := c, calcd := checksum s.params.marker t n p })

/-- "any change of one bit in `sensor_type`, any payload byte or the checksum" of a frame is reported as
`CHECKSUM_MISMATCH` (42_checksum.md R96 (a)): offset 0 is the marker and offset 2 `data_len`. -/
def Obligations.OneFlippedBitIsAMismatch : Prop :=
  ∀ (s : State) (ins rest : List Input) (t : Byte) (p : List Byte) (k j : Nat),
    s.params.legal = true → s.evqV = false → s.st = .seekStart → p.length ≤ 255 →
    k < 4 + p.length → k ≠ 0 → k ≠ 2 → j < 8 → s.inputs = ins ++ rest →
    delivers ins ((frameBytes s.params.marker t p).modify k (fun b => b ^^^ (1#8 <<< j))) = true →
    ∃ u : State, run (4 + p.length) s = .next u ∧
      u.st = .seekStart ∧ u.evqV = true ∧ u.evq.kind = .checksumMismatch

/-- Any run of bytes other than the marker leaves the state as it was (40_seek_start.md R82). -/
def Obligations.NoiseLeavesTheStateAsItWas : Prop :=
  ∀ (s : State) (ins rest : List Input) (bs : List Byte),
    s.params.legal = true → s.evqV = false → s.st = .seekStart → s.inputs = ins ++ rest →
    delivers ins bs = true → (∀ b ∈ bs, b ≠ s.params.marker) →
    run bs.length s = .next { s with inputs := rest, tick := s.tick + bs.length }

/-- A frame attempt ends (70_reset_and_hazards.md R141): in a field state, once the schedule holds as many symbols
other than `IDLE` as the attempt can consume, and no reset, some step of it leaves the field states; an attempt can
consume at most 258 symbols after its marker. -/
def Obligations.FrameAttemptEnds : Prop :=
  ∀ s : State, Inv s → s.st.isField = true → (∀ i ∈ s.inputs, i.rst = false) →
    s.remaining ≤ (s.inputs.filter fun i => i.inKind ≠ .idle).length →
    s.remaining ≤ 258 ∧
      ∃ (k : Nat) (t : State), k ≤ s.inputs.length ∧ run k s = .next t ∧ t.st.isField = false

/-- A pending event stays for as many steps as the sink holds `ev_ready` at 0, and the step that raises `ev_ready`
takes it; nothing else changes (60_exceptions.md R118, R127). -/
def Obligations.StallLastsUntilTheSinkTakes : Prop :=
  ∀ (s : State) (k : Nat) (i : Input), s.params.legal = true → s.evqV = true →
    (∀ j ∈ s.inputs.take k, j.rst = false ∧ j.evReady = false) →
    s.inputs[k]? = some i → i.rst = false → i.evReady = true →
    run (k + 1) s =
      .next { s with evqV := false, inputs := s.inputs.drop (k + 1), tick := s.tick + (k + 1) }

/-- The checksum does not depend on the order of the bytes, and a repeated byte cancels (42_checksum.md R92). -/
def Obligations.ChecksumLaws : Prop :=
  ∀ (marker t n : Byte) (p q : List Byte) (b : Byte),
    (p.Perm q → checksum marker t n p = checksum marker t n q) ∧
    checksum marker t n (b :: b :: p) = checksum marker t n p ∧
    checksum marker t n (p ++ q) = checksum marker t n p ^^^ xorFold q

/-- "the exclusive-or of all `4 + N` bytes of a well-formed frame is 0x00" (30_encoding.md R63). -/
def Obligations.FrameBytesFoldToZero : Prop :=
  ∀ (marker t : Byte) (p : List Byte), p.length ≤ 255 →
    (frameBytes marker t p).length = 4 + p.length ∧ xorFold (frameBytes marker t p) = 0x00
end

