-- ==== Sys2Proof/Laws/Decode.lean ====
section
/-! SUPPORT. The fields of a decode word and what a word made of fields decodes to. -/

namespace Sys2Proof

@[simp] theorem ParseState.ofCode_code (st : ParseState) : ParseState.ofCode st.code = st := by
  cases st <;> rfl

theorem ParseState.code_ofCode (c : BitVec 3) : (ParseState.ofCode c).code = c := by
  revert c; decide

@[simp] theorem SymKind.ofCode_code (k : SymKind) : SymKind.ofCode k.code = k := by
  cases k <;> rfl

theorem SymKind.code_ofCode (c : BitVec 2) : (SymKind.ofCode c).code = c := by
  revert c; decide

/-- States 0 to 4 are the live ones (10_state.md R33). -/
theorem ParseState.isLive_iff (st : ParseState) : st.isLive = true ↔ st.code.toNat ≤ 4 := by
  cases st <;> decide

/-- States 1 to 4 are the field states (44_stream_control.md R107). -/
theorem ParseState.isField_iff (st : ParseState) :
    st.isField = true ↔ 1 ≤ st.code.toNat ∧ st.code.toNat ≤ 4 := by
  cases st <;> decide

theorem mkDecodeWord_evqV (v : Bool) (st : ParseState) (k : SymKind) (d : Byte) :
    (mkDecodeWord v st k d).evqV = v := by
  simp only [mkDecodeWord, DecodeWord.evqV, BitVec.getLsbD_append]
  cases v <;> rfl

theorem mkDecodeWord_st (v : Bool) (st : ParseState) (k : SymKind) (d : Byte) :
    (mkDecodeWord v st k d).st = st := by
  have h : (mkDecodeWord v st k d).extractLsb' 10 3 = st.code := by
    ext i hi
    simp only [mkDecodeWord, BitVec.getElem_extractLsb', BitVec.getLsbD_append]
    have h1 : ¬ 10 + i < 8 := by omega
    have h2 : ¬ 10 + i - 8 < 2 := by omega
    have h3 : 10 + i - 8 - 2 < 3 := by omega
    have h4 : 10 + i - 8 - 2 = i := by omega
    simp [h1, h2, h4, hi]
  simp [DecodeWord.st, h]

theorem mkDecodeWord_kind (v : Bool) (st : ParseState) (k : SymKind) (d : Byte) :
    (mkDecodeWord v st k d).kind = k := by
  have h : (mkDecodeWord v st k d).extractLsb' 8 2 = k.code := by
    ext i hi
    simp only [mkDecodeWord, BitVec.getElem_extractLsb', BitVec.getLsbD_append]
    have h1 : ¬ 8 + i < 8 := by omega
    have h2 : 8 + i - 8 = i := by omega
    simp [h2, hi]
  simp [DecodeWord.kind, h]

theorem mkDecodeWord_data (v : Bool) (st : ParseState) (k : SymKind) (d : Byte) :
    (mkDecodeWord v st k d).data = d := by
  ext i hi
  simp only [mkDecodeWord, DecodeWord.data, BitVec.getElem_extractLsb', BitVec.getLsbD_append]
  simp [hi]

/-- A decode word is made of its fields (30_encoding.md R71). -/
theorem mkDecodeWord_fields (w : DecodeWord) : mkDecodeWord w.evqV w.st w.kind w.data = w := by
  simp only [mkDecodeWord, DecodeWord.st, DecodeWord.kind, DecodeWord.data, DecodeWord.evqV,
    ParseState.code_ofCode, SymKind.code_ofCode]
  ext i hi
  simp only [BitVec.getElem_append, BitVec.getElem_extractLsb', BitVec.getElem_ofBool]
  split
  · simp [BitVec.getLsbD_eq_getElem, hi]
  · split
    · have h : 8 + (i - 8) = i := by omega
      simp [h, BitVec.getLsbD_eq_getElem, hi]
    · split
      · have h : 10 + (i - 8 - 2) = i := by omega
        simp [h, BitVec.getLsbD_eq_getElem, hi]
      · have h : i = 13 := by omega
        subst h
        simp [BitVec.getLsbD_eq_getElem]

/-- The word of a step's fields decodes to the row its fields select. -/
@[simp] theorem decode_mkDecodeWord (marker : Byte) (v : Bool) (st : ParseState) (k : SymKind) (d : Byte) :
    decode marker (mkDecodeWord v st k d) = decodeFields marker v st k d := by
  simp [decode, mkDecodeWord_evqV, mkDecodeWord_st, mkDecodeWord_kind, mkDecodeWord_data]

/-- Row 1 (30_encoding.md R76): every symbol with an event pending. -/
@[simp] theorem decodeFields_pending (marker : Byte) (st : ParseState) (k : SymKind) (d : Byte) :
    decodeFields marker true st k d = .stall st k d := rfl

/-- Row 4 (30_encoding.md R76). -/
theorem decodeFields_idle (marker : Byte) {st : ParseState} (h : st.isLive = true) (d : Byte) :
    decodeFields marker false st .idle d = .idle st d := by
  cases st <;> first | rfl | cases h

/-- Row 5 (30_encoding.md R76). -/
theorem decodeFields_err (marker : Byte) {st : ParseState} (h : st.isLive = true) (d : Byte) :
    decodeFields marker false st .err d = .streamErr st d := by
  cases st <;> first | rfl | cases h

/-- Row 7 (30_encoding.md R76). -/
theorem decodeFields_short (marker : Byte) {st : ParseState} (h : st.isField = true) (d : Byte) :
    decodeFields marker false st .short d = .fieldShort st d := by
  cases st <;> first | rfl | cases h

/-- The decoder answers rows with a word of their own only (30_encoding.md R76). -/
theorem decodeFields_hasOwnWord (marker : Byte) (v : Bool) (st : ParseState) (k : SymKind) (d : Byte) :
    (decodeFields marker v st k d).hasOwnWord = true := by
  cases v <;> cases st <;> cases k <;> try rfl
  by_cases h : d = marker <;> simp [decodeFields, h, Instr.hasOwnWord]

end Sys2Proof
end

