-- ==== Sys2Proof/Laws/State.lean ====
section
/-! SUPPORT. One lemma for each field of each update of the state, so that no proof unfolds an update. -/

namespace Sys2Proof.Machine

@[simp] theorem State.setSt_st (s : State) (v : ParseState) : (s.setSt v).st = v := rfl
@[simp] theorem State.setSt_type (s : State) (v : ParseState) : (s.setSt v).type = s.type := rfl
@[simp] theorem State.setSt_len (s : State) (v : ParseState) : (s.setSt v).len = s.len := rfl
@[simp] theorem State.setSt_cnt (s : State) (v : ParseState) : (s.setSt v).cnt = s.cnt := rfl
@[simp] theorem State.setSt_acc (s : State) (v : ParseState) : (s.setSt v).acc = s.acc := rfl
@[simp] theorem State.setSt_pbuf (s : State) (v : ParseState) : (s.setSt v).pbuf = s.pbuf := rfl
@[simp] theorem State.setSt_evq (s : State) (v : ParseState) : (s.setSt v).evq = s.evq := rfl
@[simp] theorem State.setSt_evqV (s : State) (v : ParseState) : (s.setSt v).evqV = s.evqV := rfl
@[simp] theorem State.setSt_params (s : State) (v : ParseState) : (s.setSt v).params = s.params := rfl
@[simp] theorem State.setSt_inputs (s : State) (v : ParseState) : (s.setSt v).inputs = s.inputs := rfl
@[simp] theorem State.setSt_tick (s : State) (v : ParseState) : (s.setSt v).tick = s.tick := rfl

@[simp] theorem State.setType_st (s : State) (v : Byte) : (s.setType v).st = s.st := rfl
@[simp] theorem State.setType_type (s : State) (v : Byte) : (s.setType v).type = v := rfl
@[simp] theorem State.setType_len (s : State) (v : Byte) : (s.setType v).len = s.len := rfl
@[simp] theorem State.setType_cnt (s : State) (v : Byte) : (s.setType v).cnt = s.cnt := rfl
@[simp] theorem State.setType_acc (s : State) (v : Byte) : (s.setType v).acc = s.acc := rfl
@[simp] theorem State.setType_pbuf (s : State) (v : Byte) : (s.setType v).pbuf = s.pbuf := rfl
@[simp] theorem State.setType_evq (s : State) (v : Byte) : (s.setType v).evq = s.evq := rfl
@[simp] theorem State.setType_evqV (s : State) (v : Byte) : (s.setType v).evqV = s.evqV := rfl
@[simp] theorem State.setType_params (s : State) (v : Byte) : (s.setType v).params = s.params := rfl
@[simp] theorem State.setType_inputs (s : State) (v : Byte) : (s.setType v).inputs = s.inputs := rfl
@[simp] theorem State.setType_tick (s : State) (v : Byte) : (s.setType v).tick = s.tick := rfl

@[simp] theorem State.setLen_st (s : State) (v : Byte) : (s.setLen v).st = s.st := rfl
@[simp] theorem State.setLen_type (s : State) (v : Byte) : (s.setLen v).type = s.type := rfl
@[simp] theorem State.setLen_len (s : State) (v : Byte) : (s.setLen v).len = v := rfl
@[simp] theorem State.setLen_cnt (s : State) (v : Byte) : (s.setLen v).cnt = s.cnt := rfl
@[simp] theorem State.setLen_acc (s : State) (v : Byte) : (s.setLen v).acc = s.acc := rfl
@[simp] theorem State.setLen_pbuf (s : State) (v : Byte) : (s.setLen v).pbuf = s.pbuf := rfl
@[simp] theorem State.setLen_evq (s : State) (v : Byte) : (s.setLen v).evq = s.evq := rfl
@[simp] theorem State.setLen_evqV (s : State) (v : Byte) : (s.setLen v).evqV = s.evqV := rfl
@[simp] theorem State.setLen_params (s : State) (v : Byte) : (s.setLen v).params = s.params := rfl
@[simp] theorem State.setLen_inputs (s : State) (v : Byte) : (s.setLen v).inputs = s.inputs := rfl
@[simp] theorem State.setLen_tick (s : State) (v : Byte) : (s.setLen v).tick = s.tick := rfl

@[simp] theorem State.setCnt_st (s : State) (v : Byte) : (s.setCnt v).st = s.st := rfl
@[simp] theorem State.setCnt_type (s : State) (v : Byte) : (s.setCnt v).type = s.type := rfl
@[simp] theorem State.setCnt_len (s : State) (v : Byte) : (s.setCnt v).len = s.len := rfl
@[simp] theorem State.setCnt_cnt (s : State) (v : Byte) : (s.setCnt v).cnt = v := rfl
@[simp] theorem State.setCnt_acc (s : State) (v : Byte) : (s.setCnt v).acc = s.acc := rfl
@[simp] theorem State.setCnt_pbuf (s : State) (v : Byte) : (s.setCnt v).pbuf = s.pbuf := rfl
@[simp] theorem State.setCnt_evq (s : State) (v : Byte) : (s.setCnt v).evq = s.evq := rfl
@[simp] theorem State.setCnt_evqV (s : State) (v : Byte) : (s.setCnt v).evqV = s.evqV := rfl
@[simp] theorem State.setCnt_params (s : State) (v : Byte) : (s.setCnt v).params = s.params := rfl
@[simp] theorem State.setCnt_inputs (s : State) (v : Byte) : (s.setCnt v).inputs = s.inputs := rfl
@[simp] theorem State.setCnt_tick (s : State) (v : Byte) : (s.setCnt v).tick = s.tick := rfl

@[simp] theorem State.setAcc_st (s : State) (v : Byte) : (s.setAcc v).st = s.st := rfl
@[simp] theorem State.setAcc_type (s : State) (v : Byte) : (s.setAcc v).type = s.type := rfl
@[simp] theorem State.setAcc_len (s : State) (v : Byte) : (s.setAcc v).len = s.len := rfl
@[simp] theorem State.setAcc_cnt (s : State) (v : Byte) : (s.setAcc v).cnt = s.cnt := rfl
@[simp] theorem State.setAcc_acc (s : State) (v : Byte) : (s.setAcc v).acc = v := rfl
@[simp] theorem State.setAcc_pbuf (s : State) (v : Byte) : (s.setAcc v).pbuf = s.pbuf := rfl
@[simp] theorem State.setAcc_evq (s : State) (v : Byte) : (s.setAcc v).evq = s.evq := rfl
@[simp] theorem State.setAcc_evqV (s : State) (v : Byte) : (s.setAcc v).evqV = s.evqV := rfl
@[simp] theorem State.setAcc_params (s : State) (v : Byte) : (s.setAcc v).params = s.params := rfl
@[simp] theorem State.setAcc_inputs (s : State) (v : Byte) : (s.setAcc v).inputs = s.inputs := rfl
@[simp] theorem State.setAcc_tick (s : State) (v : Byte) : (s.setAcc v).tick = s.tick := rfl

@[simp] theorem State.setPbuf_st (s : State) (i : Nat) (b : Byte) : (s.setPbuf i b).st = s.st := rfl
@[simp] theorem State.setPbuf_type (s : State) (i : Nat) (b : Byte) : (s.setPbuf i b).type = s.type := rfl
@[simp] theorem State.setPbuf_len (s : State) (i : Nat) (b : Byte) : (s.setPbuf i b).len = s.len := rfl
@[simp] theorem State.setPbuf_cnt (s : State) (i : Nat) (b : Byte) : (s.setPbuf i b).cnt = s.cnt := rfl
@[simp] theorem State.setPbuf_acc (s : State) (i : Nat) (b : Byte) : (s.setPbuf i b).acc = s.acc := rfl
@[simp] theorem State.setPbuf_pbuf (s : State) (i : Nat) (b : Byte) : (s.setPbuf i b).pbuf = s.pbuf.write i b := rfl
@[simp] theorem State.setPbuf_evq (s : State) (i : Nat) (b : Byte) : (s.setPbuf i b).evq = s.evq := rfl
@[simp] theorem State.setPbuf_evqV (s : State) (i : Nat) (b : Byte) : (s.setPbuf i b).evqV = s.evqV := rfl
@[simp] theorem State.setPbuf_params (s : State) (i : Nat) (b : Byte) : (s.setPbuf i b).params = s.params := rfl
@[simp] theorem State.setPbuf_inputs (s : State) (i : Nat) (b : Byte) : (s.setPbuf i b).inputs = s.inputs := rfl
@[simp] theorem State.setPbuf_tick (s : State) (i : Nat) (b : Byte) : (s.setPbuf i b).tick = s.tick := rfl

@[simp] theorem State.emit_st (s : State) (e : Event) : (s.emit e).st = s.st := rfl
@[simp] theorem State.emit_type (s : State) (e : Event) : (s.emit e).type = s.type := rfl
@[simp] theorem State.emit_len (s : State) (e : Event) : (s.emit e).len = s.len := rfl
@[simp] theorem State.emit_cnt (s : State) (e : Event) : (s.emit e).cnt = s.cnt := rfl
@[simp] theorem State.emit_acc (s : State) (e : Event) : (s.emit e).acc = s.acc := rfl
@[simp] theorem State.emit_pbuf (s : State) (e : Event) : (s.emit e).pbuf = s.pbuf := rfl
@[simp] theorem State.emit_evq (s : State) (e : Event) : (s.emit e).evq = e := rfl
@[simp] theorem State.emit_evqV (s : State) (e : Event) : (s.emit e).evqV = true := rfl
@[simp] theorem State.emit_params (s : State) (e : Event) : (s.emit e).params = s.params := rfl
@[simp] theorem State.emit_inputs (s : State) (e : Event) : (s.emit e).inputs = s.inputs := rfl
@[simp] theorem State.emit_tick (s : State) (e : Event) : (s.emit e).tick = s.tick := rfl

@[simp] theorem State.clearEvent_st (s : State) : (s.clearEvent).st = s.st := rfl
@[simp] theorem State.clearEvent_type (s : State) : (s.clearEvent).type = s.type := rfl
@[simp] theorem State.clearEvent_len (s : State) : (s.clearEvent).len = s.len := rfl
@[simp] theorem State.clearEvent_cnt (s : State) : (s.clearEvent).cnt = s.cnt := rfl
@[simp] theorem State.clearEvent_acc (s : State) : (s.clearEvent).acc = s.acc := rfl
@[simp] theorem State.clearEvent_pbuf (s : State) : (s.clearEvent).pbuf = s.pbuf := rfl
@[simp] theorem State.clearEvent_evq (s : State) : (s.clearEvent).evq = s.evq := rfl
@[simp] theorem State.clearEvent_evqV (s : State) : (s.clearEvent).evqV = false := rfl
@[simp] theorem State.clearEvent_params (s : State) : (s.clearEvent).params = s.params := rfl
@[simp] theorem State.clearEvent_inputs (s : State) : (s.clearEvent).inputs = s.inputs := rfl
@[simp] theorem State.clearEvent_tick (s : State) : (s.clearEvent).tick = s.tick := rfl

@[simp] theorem State.takeInput_st (s : State) : (s.takeInput).st = s.st := rfl
@[simp] theorem State.takeInput_type (s : State) : (s.takeInput).type = s.type := rfl
@[simp] theorem State.takeInput_len (s : State) : (s.takeInput).len = s.len := rfl
@[simp] theorem State.takeInput_cnt (s : State) : (s.takeInput).cnt = s.cnt := rfl
@[simp] theorem State.takeInput_acc (s : State) : (s.takeInput).acc = s.acc := rfl
@[simp] theorem State.takeInput_pbuf (s : State) : (s.takeInput).pbuf = s.pbuf := rfl
@[simp] theorem State.takeInput_evq (s : State) : (s.takeInput).evq = s.evq := rfl
@[simp] theorem State.takeInput_evqV (s : State) : (s.takeInput).evqV = s.evqV := rfl
@[simp] theorem State.takeInput_params (s : State) : (s.takeInput).params = s.params := rfl
@[simp] theorem State.takeInput_inputs (s : State) : (s.takeInput).inputs = s.inputs.tail := rfl
@[simp] theorem State.takeInput_tick (s : State) : (s.takeInput).tick = s.tick + 1 := rfl

@[simp] theorem State.raise_st (s : State) (e : Event) : (s.raise e).st = stateAfter e.kind := rfl
@[simp] theorem State.raise_type (s : State) (e : Event) : (s.raise e).type = s.type := rfl
@[simp] theorem State.raise_len (s : State) (e : Event) : (s.raise e).len = s.len := rfl
@[simp] theorem State.raise_cnt (s : State) (e : Event) : (s.raise e).cnt = s.cnt := rfl
@[simp] theorem State.raise_acc (s : State) (e : Event) : (s.raise e).acc = s.acc := rfl
@[simp] theorem State.raise_pbuf (s : State) (e : Event) : (s.raise e).pbuf = s.pbuf := rfl
@[simp] theorem State.raise_evq (s : State) (e : Event) : (s.raise e).evq = e := rfl
@[simp] theorem State.raise_evqV (s : State) (e : Event) : (s.raise e).evqV = true := rfl
@[simp] theorem State.raise_params (s : State) (e : Event) : (s.raise e).params = s.params := rfl
@[simp] theorem State.raise_inputs (s : State) (e : Event) : (s.raise e).inputs = s.inputs := rfl
@[simp] theorem State.raise_tick (s : State) (e : Event) : (s.raise e).tick = s.tick := rfl

@[simp] theorem State.resetState_st (s : State) : (s.resetState).st = .seekStart := rfl
@[simp] theorem State.resetState_type (s : State) : (s.resetState).type = 0x00 := rfl
@[simp] theorem State.resetState_len (s : State) : (s.resetState).len = 0x00 := rfl
@[simp] theorem State.resetState_cnt (s : State) : (s.resetState).cnt = 0x00 := rfl
@[simp] theorem State.resetState_acc (s : State) : (s.resetState).acc = 0x00 := rfl
@[simp] theorem State.resetState_pbuf (s : State) : (s.resetState).pbuf = s.pbuf := rfl
@[simp] theorem State.resetState_evq (s : State) : (s.resetState).evq = {} := rfl
@[simp] theorem State.resetState_evqV (s : State) : (s.resetState).evqV = false := rfl
@[simp] theorem State.resetState_params (s : State) : (s.resetState).params = s.params := rfl
@[simp] theorem State.resetState_inputs (s : State) : (s.resetState).inputs = s.inputs := rfl
@[simp] theorem State.resetState_tick (s : State) : (s.resetState).tick = s.tick := rfl

end Sys2Proof.Machine
end

