-- ==== Sys2Proof/Laws/Ops.lean ====
section
/-! SUPPORT. What the shared operations do, once each: the payload buffer's laws, the guard and the sequencing of
outcomes. -/

namespace Sys2Proof.Machine

/-! ### The payload buffer -/

@[simp] theorem Memory.read_nil (i : Nat) : Memory.read [] i = none := rfl

@[simp] theorem Memory.read_write_same (m : Memory) (i : Nat) (b : Byte) : (m.write i b).read i = some b := by
  induction m with
  | nil => simp [Memory.write, Memory.read]
  | cons c rest ih =>
    simp only [Memory.write]
    split
    · simp [Memory.read]
    · split
      · simp [Memory.read]
      · have hne : ¬ c.1 = i := fun h => by omega
        simp [Memory.read, hne, ih]

theorem Memory.read_write_other (m : Memory) {i j : Nat} (b : Byte) (h : j ≠ i) :
    (m.write i b).read j = m.read j := by
  induction m with
  | nil => simp [Memory.write, Memory.read, Memory.unlisted, h.symm]
  | cons c rest ih =>
    simp only [Memory.write]
    split
    · simp [Memory.read, h.symm]
    · split
      · next hi => simp [Memory.read, ← hi, h.symm]
      · simp [Memory.read, ih]

/-- An address of a written buffer is the written one or one of before. -/
theorem Memory.mem_write {m : Memory} {i : Nat} {b : Byte} {c : Host.Cell} (h : c ∈ m.write i b) :
    c = (i, b) ∨ c ∈ m := by
  induction m with
  | nil => simpa [Memory.write] using h
  | cons d rest ih =>
    simp only [Memory.write] at h
    split at h
    · simpa using h
    · split at h
      · rcases List.mem_cons.mp h with h | h
        · exact .inl h
        · exact .inr (List.mem_cons_of_mem _ h)
      · rcases List.mem_cons.mp h with h | h
        · exact .inr (h ▸ List.mem_cons_self)
        · exact (ih h).imp_right (List.mem_cons_of_mem _)

/-- A write keeps the canonical form (20_memory.md R47). -/
theorem Memory.write_wf {m : Memory} {i : Nat} (b : Byte) (hm : m.wf) (hi : i < Config.payloadMax) :
    (m.write i b).wf := by
  refine ⟨?_, fun c hc => ?_⟩
  · have hp := hm.1
    clear hm
    induction m with
    | nil => simp [Memory.write]
    | cons c rest ih =>
      obtain ⟨hc, hr⟩ := List.pairwise_cons.mp hp
      simp only [Memory.write]
      split
      · next hlt =>
        refine List.pairwise_cons.mpr ⟨fun d hd => ?_, hp⟩
        rcases List.mem_cons.mp hd with rfl | hd
        · exact hlt
        · exact Nat.lt_trans hlt (hc d hd)
      · split
        · next heq => exact List.pairwise_cons.mpr ⟨fun d hd => heq ▸ hc d hd, hr⟩
        · next hlt heq =>
          refine List.pairwise_cons.mpr ⟨fun d hd => ?_, ih hr⟩
          rcases Memory.mem_write hd with rfl | hd
          · exact Nat.lt_of_le_of_ne (Nat.le_of_not_lt hlt) (Ne.symm heq)
          · exact hc d hd
  · rcases Memory.mem_write hc with rfl | hc
    · exact hi
    · exact hm.2 c hc

@[simp] theorem Memory.nil_wf : Memory.wf [] := by simp [Memory.wf]

/-! ### Ranges of the payload buffer -/

@[simp] theorem Memory.readRange_zero (m : Memory) (i : Nat) : m.readRange i 0 = some [] := rfl

theorem Memory.readRange_succ (m : Memory) (i n : Nat) :
    m.readRange i (n + 1) =
      match m.read i, m.readRange (i + 1) n with
      | some b, some rest => some (b :: rest)
      | _, _ => none := rfl

/-- What a range that is wholly written reads as: its entries, in index order. -/
theorem Memory.readRange_eq_some {m : Memory} {n : Nat} : ∀ {i : Nat} {p : List Byte},
    m.readRange i n = some p ↔ p.length = n ∧ ∀ j, j < n → m.read (i + j) = p[j]? := by
  induction n with
  | zero => intro i p; cases p <;> simp
  | succ n ih =>
    intro i p
    rw [Memory.readRange_succ]
    constructor
    · intro h
      split at h
      · next b rest hb hr =>
        obtain ⟨hl, hj⟩ := ih.mp hr
        cases h
        refine ⟨by simp [hl], fun j hjn => ?_⟩
        cases j with
        | zero => simpa using hb
        | succ j => simpa [Nat.add_assoc, Nat.add_comm 1] using hj j (by omega)
      · cases h
    · rintro ⟨hl, hj⟩
      cases p with
      | nil => simp at hl
      | cons b rest =>
        have hb : m.read i = some b := by simpa using hj 0 (by omega)
        have hr : m.readRange (i + 1) n = some rest :=
          ih.mpr ⟨by simpa using hl, fun j hjn => by
            simpa [Nat.add_assoc, Nat.add_comm 1] using hj (j + 1) (by omega)⟩
        simp [hb, hr]

/-- The payload of a frame has `LEN` bytes. -/
theorem Memory.readRange_length {m : Memory} {i n : Nat} {p : List Byte} (h : m.readRange i n = some p) :
    p.length = n := (Memory.readRange_eq_some.mp h).1

/-- A range is readable exactly when each of its entries has been written (10_state.md R40). -/
theorem Memory.readRange_eq_none {m : Memory} {i n : Nat} :
    m.readRange i n = none ↔ ∃ j, j < n ∧ m.read (i + j) = none := by
  induction n generalizing i with
  | zero => simp
  | succ n ih =>
    rw [Memory.readRange_succ]
    constructor
    · intro h
      split at h
      · cases h
      · next hno =>
        cases hb : m.read i with
        | none => exact ⟨0, by omega, by simpa using hb⟩
        | some b =>
          cases hr : m.readRange (i + 1) n with
          | none =>
            obtain ⟨j, hj, hn⟩ := ih.mp hr
            exact ⟨j + 1, by omega, by simpa [Nat.add_assoc, Nat.add_comm 1] using hn⟩
          | some rest => exact (hno b rest hb hr).elim
    · rintro ⟨j, hj, hn⟩
      cases j with
      | zero =>
        have hb : m.read i = none := by simpa using hn
        simp [hb]
      | succ j =>
        have hr : m.readRange (i + 1) n = none :=
          ih.mpr ⟨j, by omega, by simpa [Nat.add_assoc, Nat.add_comm 1] using hn⟩
        simp [hr]

/-- Writing the entry just past a range appends the byte to it (41_header_payload.md R88). -/
theorem Memory.readRange_write_end {m : Memory} {n : Nat} {p : List Byte} (b : Byte)
    (h : m.readRange 0 n = some p) : (m.write n b).readRange 0 (n + 1) = some (p ++ [b]) := by
  obtain ⟨hl, hj⟩ := Memory.readRange_eq_some.mp h
  refine Memory.readRange_eq_some.mpr ⟨by simp [hl], fun j hjn => ?_⟩
  rcases Nat.lt_or_ge j n with hlt | hge
  · have hne : 0 + j ≠ n := by omega
    rw [Memory.read_write_other m b hne, hj j hlt, List.getElem?_append_left (by omega)]
  · have : j = n := by omega
    subst this
    simp [← hl]

/-! ### Outcomes of a meaning -/

theorem onlyWhen_pos {c : Prop} [Decidable c] (h : c) (body : Result) : onlyWhen c body = body := by
  simp [onlyWhen, h]

theorem onlyWhen_neg {c : Prop} [Decidable c] (h : ¬ c) (body : Result) :
    onlyWhen c body = .refused .notSelected := by
  simp [onlyWhen, h]

/-- A guarded meaning answers a next state only where it is selected, and then its body's. -/
theorem onlyWhen_eq_next {c : Prop} [Decidable c] {body : Result} {t : State} :
    onlyWhen c body = .next t ↔ c ∧ body = .next t := by
  by_cases h : c <;> simp [onlyWhen, h]

@[simp] theorem andThen_next (t : State) (f : State → Result) : andThen (.next t) f = f t := rfl
@[simp] theorem andThen_fault (e : Fault) (f : State → Result) : andThen (.fault e) f = .fault e := rfl
@[simp] theorem andThen_refused (e : Refusal) (f : State → Result) : andThen (.refused e) f = .refused e := rfl

theorem andThen_eq_next {r : Result} {f : State → Result} {u : State} :
    andThen r f = .next u ↔ ∃ t, r = .next t ∧ f t = .next u := by
  cases r <;> simp

end Sys2Proof.Machine
end

