-- ==== Sys2Proof/Laws/Registry.lean ====
section
/-! SUPPORT. Lookups in a legal registry. -/

namespace Sys2Proof

/-- A descriptor that a lookup finds is an entry. -/
theorem Registry.mem_of_find {t : Byte} {d : Descriptor} : ∀ {r : Registry}, r.find t = some d → (t, d) ∈ r
  | [], h => by cases h
  | e :: rest, h => by
    simp only [Registry.find] at h
    split at h
    · next he => cases h; subst he; exact List.mem_cons_self
    · exact List.mem_cons_of_mem _ (Registry.mem_of_find h)

/-- Legality of a registry, clause by clause (10_state.md R29). -/
theorem Params.legal_iff {p : Params} :
    p.legal = true ↔ (p.registry.map Prod.fst).Nodup ∧ ∀ e ∈ p.registry, e.2.legal = true := by
  simp [Params.legal]

/-- The width condition of one descriptor (10_state.md R29). -/
theorem Descriptor.legal_iff {d : Descriptor} :
    d.legal = true ↔ (d.kind = .f32le → d.width = 4) ∧ (d.kind = .u16le → d.width = 2) := by
  cases hk : d.kind <;> simp [Descriptor.legal, hk]

/-- A descriptor found in a legal registry has a width its kind allows (10_state.md R29). -/
theorem Params.legal_of_find {p : Params} {t : Byte} {d : Descriptor} (h : p.legal = true)
    (hd : p.registry.find t = some d) : (d.kind = .f32le → d.width = 4) ∧ (d.kind = .u16le → d.width = 2) :=
  Descriptor.legal_iff.mp ((Params.legal_iff.mp h).2 (t, d) (Registry.mem_of_find hd))

end Sys2Proof
end

