-- ==== Sys2Proof/Laws/Dispatcher.lean ====
section
/-! SUPPORT. What the dispatcher and the validator can do, once each. -/

namespace Sys2Proof.Machine

/-- DECODE is defined on a payload of the width its descriptor has (43_dispatch.md R101). -/
theorem decodeValue_isSome {d : Descriptor} (hd : d.legal = true) (t : Byte) {p : List Byte}
    (hp : p.length = d.width.toNat) : ∃ v, decodeValue d.kind t p = some v := by
  have hd := Descriptor.legal_iff.mp hd
  obtain ⟨name, width, unit, kind⟩ := d
  cases kind with
  | f32le =>
    have hw : width = 4 := hd.1 rfl
    subst hw
    match p, hp with
    | [p0, p1, p2, p3], _ => exact ⟨_, rfl⟩
  | u16le =>
    have hw : width = 2 := hd.2 rfl
    subst hw
    match p, hp with
    | [p0, p1], _ => exact ⟨_, rfl⟩
  | ext => exact ⟨_, rfl⟩

/-- A reading answers a next state only for a written payload that DECODE takes, and then raises its event. -/
theorem raiseReading_eq_next {kind : DecodeKind} {s t : State} :
    raiseReading kind s = .next t ↔
      ∃ p v, s.payload = some p ∧ decodeValue kind s.type p = some v ∧ t = s.raise (readingEvent s.type s.len v p) := by
  unfold raiseReading
  cases hp : s.payload with
  | none => simp
  | some p =>
    cases hv : decodeValue kind s.type p with
    | none => simp [hv]
    | some v => simp [hv, eq_comm]

/-- The row of 30_encoding.md R77 says whether the type has a descriptor and what its width and kind are. -/
theorem dispatchRow_eq_some {ps : Params} {t n : Byte} {r : DispatchRow} (h : dispatchRow ps t n = some r) :
    (r = .unknown ∧ ps.registry.find t = none) ∨
      ∃ d, ps.registry.find t = some d ∧
        ((r = .malformed ∧ n ≠ d.width) ∨ (r = .temperature ∧ n = d.width ∧ d.kind = .f32le ∧ n = 4) ∨
          (r = .humidity ∧ n = d.width ∧ d.kind = .u16le ∧ n = 2) ∨ (r = .ext ∧ n = d.width ∧ d.kind = .ext)) := by
  unfold dispatchRow at h
  split at h
  · next hn => exact .inl ⟨(Option.some.inj h).symm, hn⟩
  · next d hd =>
    refine .inr ⟨d, hd, ?_⟩
    split at h
    · next hw => exact .inl ⟨(Option.some.inj h).symm, hw⟩
    · next hw =>
      have hw' : n = d.width := Classical.not_not.mp hw
      split at h
      · next hk =>
        split at h
        · next h4 => exact .inr (.inl ⟨(Option.some.inj h).symm, hw', hk, h4⟩)
        · cases h
      · next hk =>
        split at h
        · next h2 => exact .inr (.inr (.inl ⟨(Option.some.inj h).symm, hw', hk, h2⟩))
        · cases h
      · next hk => exact .inr (.inr (.inr ⟨(Option.some.inj h).symm, hw', hk⟩))

/-- The row selected for a legal registry never lacks (10_state.md R29, 30_encoding.md R77). -/
theorem dispatchRow_ne_none {ps : Params} (h : ps.legal = true) (t n : Byte) : dispatchRow ps t n ≠ none := by
  unfold dispatchRow
  cases hd : ps.registry.find t with
  | none => simp
  | some d =>
    have hl := Params.legal_of_find h hd
    by_cases hw : n = d.width
    · cases hk : d.kind with
      | f32le => simp [hw, hk, hl.1 hk]
      | u16le => simp [hw, hk, hl.2 hk]
      | ext => simp [hw, hk]
    · simp [hw]

/-- CHK.MATCH performs the selected row (42_checksum.md R94). -/
theorem execChkMatch_eq {c : Byte} {s : State} (hv : s.evqV = false) (hst : s.st = .readChecksum)
    (hc : s.checksumMatches c = true) :
    execChkMatch c s =
      match dispatchRow s.params s.type s.len with
      | some .unknown => execDispUnknown s
      | some .malformed => execDispMalformed s
      | some .temperature => execDispTemperature s
      | some .humidity => execDispHumidity s
      | some .ext => execDispExt s
      | none => .refused .illegalRegistry :=
  onlyWhen_pos ⟨hv, hst, hc⟩ _

/-- CHK.MATCH answers a next state only by raising an event, and that event is the record DISPATCH returns for the
frame (42_checksum.md R94): of a valid reading the payload is written. -/
theorem execChkMatch_eq_next {c : Byte} {s t : State} (h : execChkMatch c s = .next t) :
    s.evqV = false ∧ s.st = .readChecksum ∧ s.checksumMatches c = true ∧
      ((s.params.registry.find s.type = none ∧ t = s.raise (unknownTypeEvent s.type)) ∨
        ∃ d, s.params.registry.find s.type = some d ∧
          ((s.len ≠ d.width ∧ t = s.raise (malformedEvent s.type d.width s.len)) ∨
            (s.len = d.width ∧ ∃ p v, s.payload = some p ∧ decodeValue d.kind s.type p = some v ∧
              t = s.raise (readingEvent s.type s.len v p)))) := by
  obtain ⟨⟨hv, hst, hc⟩, -⟩ := onlyWhen_eq_next.mp h
  refine ⟨hv, hst, hc, ?_⟩
  rw [execChkMatch_eq hv hst hc] at h
  cases hr : dispatchRow s.params s.type s.len with
  | none => rw [hr] at h; cases h
  | some r =>
    rw [hr] at h
    rcases dispatchRow_eq_some hr with ⟨rfl, hn⟩ | ⟨d, hd, hrow⟩
    · obtain ⟨-, h⟩ := onlyWhen_eq_next.mp h
      exact .inl ⟨hn, by injection h with h; exact h.symm⟩
    · refine .inr ⟨d, hd, ?_⟩
      rcases hrow with ⟨rfl, hw⟩ | ⟨rfl, hw, hk, -⟩ | ⟨rfl, hw, hk, -⟩ | ⟨rfl, hw, hk⟩
      · obtain ⟨-, h⟩ := onlyWhen_eq_next.mp h
        simp only [hd] at h
        exact .inl ⟨hw, by injection h with h; exact h.symm⟩
      all_goals
        obtain ⟨-, h⟩ := onlyWhen_eq_next.mp h
        exact .inr ⟨hw, by rw [hk]; exact raiseReading_eq_next.mp h⟩

/-- CHK.BYTE answers a next state only by raising one event (42_checksum.md R93). -/
theorem execChkByte_eq_next {c : Byte} {s t : State} (h : execChkByte c s = .next t) :
    s.evqV = false ∧ s.st = .readChecksum ∧
      ((c ≠ s.acc ∧ t = s.raise (mismatchEvent c s.acc)) ∨ (c = s.acc ∧ execChkMatch c s = .next t)) := by
  obtain ⟨⟨hv, hst⟩, h⟩ := onlyWhen_eq_next.mp h
  refine ⟨hv, hst, ?_⟩
  by_cases hc : c = s.acc
  · exact .inr ⟨hc, by simpa [State.checksumMatches, hc] using h⟩
  · have hm : s.checksumMatches c = false := by simp [State.checksumMatches, hc]
    simp only [hm, Bool.false_eq_true, if_false] at h
    obtain ⟨-, h⟩ := onlyWhen_eq_next.mp h
    exact .inl ⟨hc, by injection h with h; exact h.symm⟩

end Sys2Proof.Machine
end

