-- ==== Sys2Proof/Machine/Environment.lean ====
section
/-! DEFINITION. The duties of the environment (70_reset_and_hazards.md R133 to R138) as predicates on the inputs to
come: premises of claims, which no step enforces (log entry 20). -/

namespace Sys2Proof.Machine

/-- The input of the step `k` steps ahead: the schedule's, or the free one past its end (log entry 1). -/
def State.upcoming (s : State) (k : Nat) : Input :=
  s.inputs[k]?.getD (Config.freeInput (s.tick + k))

/-- A symbol `{in_kind, in_data}` (30_encoding.md R73). -/
abbrev Symbol := SymKind × Byte

/-- The symbol presented in a step. -/
def symbolOf (i : Input) : Symbol := (i.inKind, i.inData)

/-- The same symbol: "The data bits of `IDLE` and `SHORT` are ignored by every rule" (30_encoding.md R73). -/
def sameSymbol (a b : Symbol) : Bool :=
  a.1 == b.1 &&
    match a.1 with
    | .byte | .err => a.2 == b.2
    | .idle | .short => true

/-- Hold (70_reset_and_hazards.md R134): a symbol met with `in_ready = 0` is presented again in the next step.
DESIGN CHOICE (log entry 23): the rule names no exemption for a reset, and the model drops the duty when this step or
the next one has `rst = 1`. DESIGN CHOICE (log entry 24): the rule does not say whether an `IDLE`, which presents nothing
(10_state.md R32), is held, and the model lets any symbol follow it. -/
def holdsSymbol (s : State) : Prop :=
  s.inReady = false → (s.upcoming 0).rst = false → (s.upcoming 1).rst = false → (s.upcoming 0).inKind ≠ .idle →
    sameSymbol (symbolOf (s.upcoming 0)) (symbolOf (s.upcoming 1)) = true

/-- Bounded wait (70_reset_and_hazards.md R135): in a field state one of the next `n` inputs is not `IDLE`.
DESIGN CHOICE (log entry 23): a reset among them ends the wait too, where the rule lists `BYTE`, `SHORT` or `ERR`. -/
def endsWait (n : Nat) (s : State) : Prop :=
  s.st.isField = true → ∃ k < n, (s.upcoming k).rst = true ∨ (s.upcoming k).inKind ≠ .idle

/-- Sink progress (70_reset_and_hazards.md R136): a pending event is taken within the next `n` inputs.
DESIGN CHOICE (log entry 23): a reset among them, which discards the event untaken, meets the duty too. -/
def takesEvent (n : Nat) (s : State) : Prop :=
  s.evqV = true → ∃ k < n, (s.upcoming k).rst = true ∨ (s.upcoming k).evReady = true

/-- `P` holds in the states of a run's next `k` steps. -/
def along (P : State → Prop) : Nat → State → Prop
  | 0, _ => True
  | k + 1, s =>
    P s ∧
      match step s with
      | .next t => along P k t
      | .fault _ => True
      | .refused _ => True

/-! ### Reads (00_scope.md R15, 70_reset_and_hazards.md R138) -/

/-- How the byte source's read ended (00_scope.md R12, R15): with the bytes it read, or with the bytes it read before an
error or a distinct end of stream. -/
inductive ReadAnswer where
  | bytes (bs : List Byte)
  | error (bs : List Byte) (detail : Byte)
  deriving DecidableEq, Repr

/-- The bytes a read returned (00_scope.md R12). -/
def ReadAnswer.read : ReadAnswer → List Byte
  | .bytes bs => bs
  | .error bs _ => bs

/-- A read of `k` bytes returns at most `k` (00_scope.md R12, R15). -/
def ReadAnswer.fits (k : Nat) (r : ReadAnswer) : Bool := decide (r.read.length ≤ k)

/-- What follows the bytes of the answer to a read of `k` bytes (00_scope.md R15): one `SHORT` where there are fewer
than `k` and no error, one `ERR` for an error. -/
def ReadAnswer.ending (k : Nat) : ReadAnswer → List Symbol
  | .bytes bs => if bs.length < k then [(.short, 0x00)] else []
  | .error _ d => [(.err, d)]

/-- The symbols that present the answer to a read of `k` bytes (00_scope.md R15): one `BYTE` a byte, and then its
ending. DESIGN CHOICE (log entry 26): R15 does not say how a read that returns some bytes and then fails is presented,
and the model presents the bytes and then the `ERR`, with no `SHORT` between. -/
def ReadAnswer.symbols (k : Nat) (r : ReadAnswer) : List Symbol :=
  r.read.map (fun b => (.byte, b)) ++ r.ending k

/-- The next symbol the byte source owes, with what remains: of the answer it is presenting, or of the next read, which
asks for the `need` bytes of the state (00_scope.md R15). -/
def owedSymbol (s : State) : List Symbol → List ReadAnswer → Option (Symbol × List Symbol × List ReadAnswer)
  | x :: rest, reads => some (x, rest, reads)
  | [], [] => none
  | [], r :: reads =>
    if r.fits s.need.toNat then
      match r.symbols s.need.toNat with
      | x :: rest => some (x, rest, reads)
      | [] => none
    else none

/-- The symbols consumed in the next `k` steps, `IDLE` apart, are those that present what is left of the current answer
and the answers of the reads that follow: so a `SHORT` comes only from "a read that returned short"
(70_reset_and_hazards.md R133, R138). A field whose bytes come in chunks is one answer, with any number of `IDLE` between
its bytes. DESIGN CHOICE (log entry 23): a reset drops what is left of the current answer. -/
def answersReads : Nat → List Symbol → List ReadAnswer → State → Bool
  | 0, _, _, _ => true
  | k + 1, left, reads, s =>
    match step s with
    | .next t =>
      if s.nextInput.rst then answersReads k [] reads t
      else if s.inReady && s.nextInput.inKind != .idle then
        match owedSymbol s left reads with
        | some (x, left', reads') => sameSymbol (symbolOf s.nextInput) x && answersReads k left' reads' t
        | none => false
      else answersReads k left reads t
    | .fault _ => true
    | .refused _ => true

/-- The environment's duties for `k` steps (70_reset_and_hazards.md R133), every wait bounded by `n`, for a byte source
whose reads from the first state on end as `reads` says (log entry 25). The duties of the host hold in the model by
construction: no step writes the parameters (R137), and one schedule is one byte source and one sink (20_memory.md
R60). -/
def meetsDuties (reads : List ReadAnswer) (n k : Nat) (s : State) : Prop :=
  along (fun u => holdsSymbol u ∧ endsWait n u ∧ takesEvent n u) k s ∧ answersReads k [] reads s = true

end Sys2Proof.Machine
end

