-- ==== Sys2Proof/Laws/Environment.lean ====
section
/-! SUPPORT. The inputs to come, one step later, and what a read's answer can present. -/

namespace Sys2Proof.Machine

@[simp] theorem State.upcoming_zero (s : State) : s.upcoming 0 = s.nextInput := by
  cases h : s.inputs <;> simp [State.upcoming, State.nextInput, h]

@[simp] theorem State.takeInput_upcoming (s : State) (k : Nat) : s.takeInput.upcoming k = s.upcoming (k + 1) := by
  simp [State.upcoming, State.takeInput, Nat.add_comm 1 k, Nat.add_assoc]

@[simp] theorem sameSymbol_refl (a : Symbol) : sameSymbol a a = true := by
  obtain ⟨k, d⟩ := a
  cases k <;> simp [sameSymbol]

/-- A `SHORT` presents only a read that returned fewer bytes than it asked for (70_reset_and_hazards.md R138). -/
theorem ReadAnswer.short_mem_symbols {k : Nat} {r : ReadAnswer} {d : Byte} (h : (SymKind.short, d) ∈ r.symbols k) :
    ∃ bs, r = .bytes bs ∧ bs.length < k := by
  cases r with
  | error bs e => simp [ReadAnswer.symbols, ReadAnswer.ending] at h
  | bytes bs =>
    refine ⟨bs, rfl, ?_⟩
    by_contra hk
    simp [ReadAnswer.symbols, ReadAnswer.ending, hk] at h

/-- The bytes of an answer are presented whatever its ending; with an error the `ERR` comes last (00_scope.md R15). -/
@[simp] theorem ReadAnswer.symbols_error (k : Nat) (bs : List Byte) (d : Byte) :
    (ReadAnswer.error bs d).symbols k = bs.map (fun b => (.byte, b)) ++ [(.err, d)] := rfl

/-- A read answered in full is presented by its bytes alone (00_scope.md R15). -/
theorem ReadAnswer.symbols_full {k : Nat} {bs : List Byte} (h : bs.length = k) :
    (ReadAnswer.bytes bs).symbols k = bs.map (fun b => (.byte, b)) := by
  simp [ReadAnswer.symbols, ReadAnswer.ending, ReadAnswer.read, h]

end Sys2Proof.Machine
end

