-- ==== Sys2Proof/Laws/PerInstr.lean ====
section
/-! SUPPORT. Family `RowPattern`: the word of a well-formed operation lies in the mask and match pattern that
opcode_table.json gives its row. -/

namespace Sys2Proof.Laws.RowPattern

open Sys2Proof

/-- The pattern of the table row of an instruction (opcode_table.json "mask" and "match"; CHK.MATCH and CHK.MISMATCH have
CHK.BYTE's; the rows without a word have none). -/
def rowPattern (marker : Byte) : Instr → Option (DecodeWord × DecodeWord)
  | .stall _ _ _ => some (0x2000, 0x2000)
  | .rsvState _ _ _ => some (0x3800, 0x1800)
  | .stoppedHold _ _ => some (0x3C00, 0x1400)
  | .idle _ _ => some (0x2300, 0x0000)
  | .streamErr _ _ => some (0x2300, 0x0300)
  | .seekShort _ => some (0x3F00, 0x0200)
  | .fieldShort _ _ => some (0x2300, 0x0200)
  | .seekMarker => some (0x3FFF, 0x0100 ||| marker.setWidth 14)
  | .seekDiscard _ => some (0x3F00, 0x0100)
  | .hdrType _ => some (0x3F00, 0x0500)
  | .hdrLen _ => some (0x3F00, 0x0900)
  | .payByte _ => some (0x3F00, 0x0D00)
  | .chkByte _ => some (0x3F00, 0x1100)
  | .chkMatch _ => some (0x3F00, 0x1100)
  | .chkMismatch _ => some (0x3F00, 0x1100)
  | .dispUnknown => none
  | .dispMalformed => none
  | .dispTemperature => none
  | .dispHumidity => none
  | .dispExt => none
  | .evDrain => none
  | .reset => none

/-- The word of a well-formed operation fits its row: it has a word exactly where the row has a pattern, and the word's
bits under the mask are the pattern's. -/
def Statement (i : Instr) : Prop :=
  ∀ marker : Byte, i.wellFormed marker = true →
    match encode marker i, rowPattern marker i with
    | some w, some (mask, pattern) => w &&& mask = pattern
    | none, none => True
    | some _, none => False
    | none, some _ => False

/-- A mask that takes no data bit sees the upper six bits only. -/
theorem append_and_mask (hi m : BitVec 6) (lo : Byte) : (hi ++ lo) &&& (m ++ 0#8) = (hi &&& m) ++ 0#8 := by
  ext i hi'
  simp only [BitVec.getElem_and, BitVec.getElem_append]
  split <;> simp

theorem stall (st : ParseState) (k : SymKind) (d : Byte) : Statement (.stall st k d) := by
  intro marker _
  have h := append_and_mask (1#1 ++ st.code ++ k.code) 0x20#6 d
  cases st <;> cases k <;> exact h

theorem rsvState (st : ParseState) (k : SymKind) (d : Byte) : Statement (.rsvState st k d) := by
  intro marker hw
  have h := append_and_mask (0#1 ++ st.code ++ k.code) 0x38#6 d
  cases st <;> first | exact (Bool.false_ne_true hw).elim | (cases k <;> exact h)

theorem stoppedHold (k : SymKind) (d : Byte) : Statement (.stoppedHold k d) := by
  intro marker _
  have h := append_and_mask (0b0101#4 ++ k.code) 0x3C#6 d
  cases k <;> exact h

theorem idle (st : ParseState) (d : Byte) : Statement (.idle st d) := by
  intro marker _
  have h := append_and_mask (0#1 ++ st.code ++ 0b00#2) 0x23#6 d
  cases st <;> exact h

theorem streamErr (st : ParseState) (d : Byte) : Statement (.streamErr st d) := by
  intro marker _
  have h := append_and_mask (0#1 ++ st.code ++ 0b11#2) 0x23#6 d
  cases st <;> exact h

theorem seekShort (d : Byte) : Statement (.seekShort d) := fun _ _ => append_and_mask 0b000010#6 0x3F#6 d

theorem fieldShort (st : ParseState) (d : Byte) : Statement (.fieldShort st d) := by
  intro marker _
  have h := append_and_mask (0#1 ++ st.code ++ 0b10#2) 0x23#6 d
  cases st <;> exact h

theorem seekMarker : Statement .seekMarker := by
  intro marker _
  show (0b000001#6 ++ marker) &&& 0x3FFF = 0x0100 ||| marker.setWidth 14
  have hm : (0x3FFF : DecodeWord) = BitVec.allOnes 14 := by decide
  have h1 : (0x0100 : DecodeWord) = 0b000001#6 ++ 0#8 := by decide
  rw [hm, BitVec.and_allOnes, h1]
  ext i hi
  simp only [BitVec.getElem_append, BitVec.getElem_or, BitVec.getElem_setWidth]
  split
  · next h => simp [BitVec.getLsbD_eq_getElem, h]
  · next h => simp [BitVec.getLsbD_of_ge marker i (by omega)]

theorem seekDiscard (b : Byte) : Statement (.seekDiscard b) := fun _ _ => append_and_mask 0b000001#6 0x3F#6 b
theorem hdrType (b : Byte) : Statement (.hdrType b) := fun _ _ => append_and_mask 0b000101#6 0x3F#6 b
theorem hdrLen (b : Byte) : Statement (.hdrLen b) := fun _ _ => append_and_mask 0b001001#6 0x3F#6 b
theorem payByte (b : Byte) : Statement (.payByte b) := fun _ _ => append_and_mask 0b001101#6 0x3F#6 b
theorem chkByte (c : Byte) : Statement (.chkByte c) := fun _ _ => append_and_mask 0b010001#6 0x3F#6 c
theorem chkMatch (c : Byte) : Statement (.chkMatch c) := fun _ _ => append_and_mask 0b010001#6 0x3F#6 c
theorem chkMismatch (c : Byte) : Statement (.chkMismatch c) := fun _ _ => append_and_mask 0b010001#6 0x3F#6 c
theorem dispUnknown : Statement .dispUnknown := fun _ _ => trivial
theorem dispMalformed : Statement .dispMalformed := fun _ _ => trivial
theorem dispTemperature : Statement .dispTemperature := fun _ _ => trivial
theorem dispHumidity : Statement .dispHumidity := fun _ _ => trivial
theorem dispExt : Statement .dispExt := fun _ _ => trivial
theorem evDrain : Statement .evDrain := fun _ _ => trivial
theorem reset : Statement .reset := fun _ _ => trivial

end Sys2Proof.Laws.RowPattern
end

