-- ==== Sys2Proof/Laws/Step.lean ====
section
/-! SUPPORT. What a step can do, said once. -/

namespace Sys2Proof.Machine

/-- The operation of a step is the one its fields select (30_encoding.md R71, R76). -/
theorem State.selectedOp_eq (s : State) (inp : Input) :
    s.selectedOp inp = decodeFields s.params.marker s.evqV s.st inp.inKind inp.inData := by
  simp [State.selectedOp, State.decodeWord]

@[simp] theorem State.takeInput_nextInput_cons (s : State) (i : Input) (rest : List Input) (h : s.inputs = i :: rest) :
    s.nextInput = i ∧ s.takeInput.inputs = rest := by
  simp [State.nextInput, State.takeInput, h]

/-- A step of a legal configuration that answers a next state is a reset; or the drain or the wait of a pending event;
or the operation its fields select, with no event pending (44_stream_control.md R114). -/
theorem step_eq_next {s u : State} (h : step s = .next u) :
    s.params.legal = true ∧
      ((s.nextInput.rst = true ∧ u = s.takeInput.resetState) ∨
        (s.nextInput.rst = false ∧ s.evqV = true ∧ s.nextInput.evReady = true ∧ u = s.takeInput.clearEvent) ∨
        (s.nextInput.rst = false ∧ s.evqV = true ∧ s.nextInput.evReady = false ∧ u = s.takeInput) ∨
        (s.nextInput.rst = false ∧ s.evqV = false ∧
          exec (decodeFields s.params.marker false s.st s.nextInput.inKind s.nextInput.inData) s.takeInput
            = .next u)) := by
  unfold step oneStep at h
  split at h
  · next hl =>
    refine ⟨hl, ?_⟩
    split at h
    · next hr => exact .inl ⟨hr, by injection h with h; exact h.symm⟩
    · next hr =>
      have hr : s.nextInput.rst = false := by simpa using hr
      refine .inr ?_
      obtain ⟨t, ht, hu⟩ := andThen_eq_next.mp h
      rw [State.selectedOp_eq] at ht
      simp only [State.takeInput_evqV, State.takeInput_st, State.takeInput_params] at ht
      cases hv : s.evqV with
      | true =>
        rw [hv, decodeFields_pending] at ht
        obtain ⟨-, ht⟩ := onlyWhen_eq_next.mp ht
        injection ht with ht
        subst ht
        cases he : s.nextInput.evReady with
        | true =>
          simp only [State.drains, State.takeInput_evqV, hv, he, Bool.and_self, if_true] at hu
          obtain ⟨-, hu⟩ := onlyWhen_eq_next.mp hu
          injection hu with hu
          exact .inl ⟨hr, rfl, rfl, hu.symm⟩
        | false =>
          simp only [State.drains, State.takeInput_evqV, hv, he, Bool.and_false, Bool.false_eq_true, if_false] at hu
          injection hu with hu
          exact .inr (.inl ⟨hr, rfl, rfl, hu.symm⟩)
      | false =>
        rw [hv] at ht
        simp only [State.drains, State.takeInput_evqV, hv, Bool.false_and, Bool.false_eq_true, if_false] at hu
        injection hu with hu
        subst hu
        exact .inr (.inr ⟨hr, rfl, ht⟩)
  · cases h

/-- A step of a legal configuration with no event pending and no reset is the operation its fields select. -/
theorem step_of_ready {s : State} (hl : s.params.legal = true) (hr : s.nextInput.rst = false) (hv : s.evqV = false) :
    step s = exec (decodeFields s.params.marker false s.st s.nextInput.inKind s.nextInput.inData) s.takeInput := by
  simp only [step, oneStep, hl, hr, symbolStep, State.selectedOp_eq, State.takeInput_evqV, State.takeInput_st,
    State.takeInput_params, State.drains, hv, Bool.false_and, Bool.false_eq_true, if_false, if_true]
  cases exec (decodeFields s.params.marker false s.st s.nextInput.inKind s.nextInput.inData) s.takeInput <;> rfl

end Sys2Proof.Machine
end

