-- ==== Sys2Proof/Laws/Run.lean ====
section
/-! SUPPORT. Runs of several steps, one step at a time. -/

namespace Sys2Proof.Machine

@[simp] theorem run_zero (s : State) : run 0 s = .next s := rfl

/-- A run of any core goes on from its first step's next state. -/
theorem coreRun_succ (M : Host.Core) {k : Nat} {s t : M.State} (h : M.step s = .next t) :
    M.run (k + 1) s = M.run k t := by
  simp only [Host.Core.run, h]

/-- A run goes on from its first step's next state. -/
theorem run_succ {k : Nat} {s t : State} (h : step s = .next t) : run (k + 1) s = run k t :=
  coreRun_succ Sys2Proof.core h

/-- A step that consumes a byte with no event pending (44_stream_control.md R114). -/
theorem step_of_byte {s : State} {i : Input} {rest : List Input} (hl : s.params.legal = true) (hv : s.evqV = false)
    (hi : s.inputs = i :: rest) (hr : i.rst = false) (hk : i.inKind = .byte) :
    step s = exec (decodeFields s.params.marker false s.st .byte i.inData) s.takeInput := by
  have h : s.nextInput = i := by simp [State.nextInput, hi]
  rw [step_of_ready hl (by rw [h, hr]) hv, h, hk]

/-- Inputs that deliver a byte and more begin with that byte's symbol (20_memory.md R54). -/
theorem delivers_cons {ins : List Input} {b : Byte} {bs : List Byte} (h : delivers ins (b :: bs) = true) :
    ∃ i is, ins = i :: is ∧ i.rst = false ∧ i.inKind = .byte ∧ i.inData = b ∧ delivers is bs = true := by
  cases ins with
  | nil => cases h
  | cons i is =>
    simp only [delivers, Bool.and_eq_true, Bool.not_eq_true', beq_iff_eq] at h
    exact ⟨i, is, rfl, h.1.1.1, h.1.1.2, h.1.2, h.2⟩

end Sys2Proof.Machine
end

