-- ==== Sys2Proof/Machine/Stimulus.lean ====
section
/-! DEFINITION. The stimulus notation of 30_encoding.md R80: an environment that holds each line until a step consumes
it. It is no part of the block (92_eei_decisions.md D12). -/

namespace Sys2Proof.Machine

/-- A line: a symbol, with or without `/nr`, or `RST` (30_encoding.md R80). -/
inductive StimulusLine where
  | symbol (kind : SymKind) (data : Byte) (notReady : Bool)
  | rst
  deriving DecidableEq, Repr

/-- `RAW b0, b1, ...` (30_encoding.md R80). -/
def rawLines (bs : List Byte) : List StimulusLine := bs.map fun b => .symbol .byte b false

/-- `FRAME t, [p0, ..., pN-1]` (30_encoding.md R80). -/
def frameLines (marker t : Byte) (p : List Byte) : List StimulusLine := rawLines (frameBytes marker t p)

/-- The 10-bit symbol word `{in_kind, in_data}` of a line (30_encoding.md R73); `RST` has none. -/
def StimulusLine.word : StimulusLine → Option (BitVec 10)
  | .symbol kind data _ => some (kind.code ++ data)
  | .rst => none

/-- What a line drives in a step: `ev_ready` is 0 only in the first step of a line that ends in `/nr`. -/
def StimulusLine.input (first : Bool) : StimulusLine → Input
  | .symbol kind data notReady => { rst := false, inKind := kind, inData := data, evReady := !(first && notReady) }
  | .rst => { rst := true, inKind := .idle, inData := 0, evReady := true }

/-- A line other than a symbol. -/
def StimulusLine.isRst : StimulusLine → Bool
  | .symbol _ _ _ => false
  | .rst => true

/-- The event the sink takes in a step: the one shown on the `ev_*` ports (44_stream_control.md R112). -/
def takenIn (s : State) (inp : Input) : List Event :=
  if !inp.rst && s.drains inp then [s.evq] else []

/-- A run of a stimulus: the state, the events taken in order, the steps. -/
structure Session where
  state : State
  taken : List Event
  steps : Nat
  deriving DecidableEq, Repr

/-- Presents the lines (30_encoding.md R80): a line is held until a step consumes it; `RST` takes one step; a line met
in `STOPPED.HOLD` is never consumed and the sequence skips to its next `RST`. `first` says that the line has not been
presented before. None where the model stops or the fuel is short (log entry 15). -/
def drive : Nat → Bool → List StimulusLine → Session → Option Session
  | _, _, [], x => some x
  | 0, _, _ :: _, _ => none
  | fuel + 1, first, l :: ls, x =>
    match step { x.state with inputs := [l.input first] } with
    | .next t =>
      let x' : Session := { state := t, taken := x.taken ++ takenIn x.state (l.input first), steps := x.steps + 1 }
      if l.isRst || x.state.inReady then drive fuel true ls x'
      else if x.state.isStopped && !x.state.evqV then drive fuel true (ls.dropWhile fun k => !k.isRst) x'
      else drive fuel false (l :: ls) x'
    | .fault _ => none
    | .refused _ => none

end Sys2Proof.Machine
end

