-- ==== Sys2Proof/Tests/Slice0.lean ====
section
/-! SUPPORT. Tests: well-formedness, decoding, one-step behaviour of every operation, and a witness for the hypotheses
of every statement in Certificates/Slice0/Obligations.lean. Expected values come from the spec: the patterns of
30_encoding.md R76, the rules' own examples, and the traces of 95_test_vectors.md. -/

namespace Sys2Proof.Machine

/-! ### Helpers -/

/-- The outcome is a next state that passes the check. -/
def after (o : Result) (p : State → Bool) : Bool :=
  match o with
  | .next t => p t
  | .fault _ => false
  | .refused _ => false

/-- The outcome is this fault. -/
def faultsWith (o : Result) (f : Fault) : Bool :=
  match o with
  | .next _ => false
  | .fault g => g == f
  | .refused _ => false

/-- The outcome is this refusal. -/
def refusesWith (o : Result) (r : Refusal) : Bool :=
  match o with
  | .next _ => false
  | .fault _ => false
  | .refused q => q == r

/-- The reset state moved to a state code. -/
def inSt (st : ParseState) : State := { State.reset with st := st }

/-- The reset state with an event pending. -/
def waiting (st : ParseState) (e : Event) : State := { State.reset with st := st, evq := e, evqV := true }

/-- A frame read up to its checksum byte. -/
def atChecksum (t : Byte) (p : List Host.Cell) (n acc : Byte) : State :=
  { State.reset with st := .readChecksum, type := t, len := n, cnt := n, acc := acc, pbuf := p }

/-- The reset state with a registry of one extension entry, of type 0x07 and a given width. -/
def extParams (w : Byte) : Params :=
  { Params.thisHardware with registry := [(0x07, { name := "X", width := w, unit := "u", kind := .ext })] }

/-- `HUMIDITY` with the wrong width and a doubled type id: two registries that 10_state.md R29 forbids. -/
def wideHumidity : Params :=
  { Params.thisHardware with registry := [(0x02, { Config.humidity with width := 4 })] }
def narrowTemperature : Params :=
  { Params.thisHardware with registry := [(0x01, { Config.temperature with width := 2 })] }
def doubledType : Params :=
  { Params.thisHardware with registry := [(0x02, Config.humidity), (0x02, Config.humidity)] }

/-- The parameters with `SHORT_READ_EVENT = 1`. -/
def diagParams : Params := { Params.thisHardware with shortReadEvent := true }

/-- A symbol with `rst = 0` and `ev_ready = 1`. -/
def sym (kind : SymKind) (data : Byte) : Input := { rst := false, inKind := kind, inData := data, evReady := true }

/-- A step with `rst = 1`. -/
def rstInput : Input := { rst := true, inKind := .err, inData := 0x33, evReady := true }

/-- The inputs of a byte sequence. -/
def bytesIn (bs : List Byte) : List Input := bs.map (sym .byte)

theorem delivers_bytesIn (bs : List Byte) : delivers (bytesIn bs) bs = true := by
  induction bs with
  | nil => rfl
  | cons b bs ih => simpa [bytesIn, delivers, sym] using ih

/-! ### Well-formedness: an ill-formed term for each check (30_encoding.md R76) -/

theorem test_wf_rsvState : (Instr.rsvState .stopped .byte 0x00).wellFormed 0xAA = false ∧
    (Instr.rsvState .reserved6 .byte 0x00).wellFormed 0xAA = true := by decide
theorem test_wf_idle : (Instr.idle .stopped 0x00).wellFormed 0xAA = false ∧
    (Instr.idle .readChecksum 0x00).wellFormed 0xAA = true := by decide
theorem test_wf_streamErr : (Instr.streamErr .reserved6 0x00).wellFormed 0xAA = false ∧
    (Instr.streamErr .seekStart 0x00).wellFormed 0xAA = true := by decide
theorem test_wf_fieldShort : (Instr.fieldShort .seekStart 0x00).wellFormed 0xAA = false ∧
    (Instr.fieldShort .stopped 0x00).wellFormed 0xAA = false ∧
    (Instr.fieldShort .readHeaderType 0x00).wellFormed 0xAA = true := by decide
theorem test_wf_seekDiscard : (Instr.seekDiscard 0xAA).wellFormed 0xAA = false ∧
    (Instr.seekDiscard 0xAA).wellFormed 0x55 = true := by decide

/-! ### Decoding: words written bit by bit from the patterns of 30_encoding.md R76 -/

theorem test_decode_stall : decode 0xAA 0b1_101_01_10101010 = .stall .stopped .byte 0xAA := by decide
theorem test_decode_rsvState : decode 0xAA 0b0_111_11_00000001 = .rsvState .reserved7 .err 0x01 := by decide
theorem test_decode_stoppedHold : decode 0xAA 0b0_101_10_11110000 = .stoppedHold .short 0xF0 := by decide
theorem test_decode_idle : decode 0xAA 0b0_100_00_00000000 = .idle .readChecksum 0x00 := by decide
theorem test_decode_streamErr : decode 0xAA 0b0_001_11_00000111 = .streamErr .readHeaderType 0x07 := by decide
theorem test_decode_seekShort : decode 0xAA 0b0_000_10_00000000 = .seekShort 0x00 := by decide
theorem test_decode_fieldShort : decode 0xAA 0b0_010_10_00000000 = .fieldShort .readHeaderLen 0x00 := by decide
theorem test_decode_seekMarker : decode 0xAA 0b0_000_01_10101010 = .seekMarker ∧
    decode 0x7E 0b0_000_01_01111110 = .seekMarker := by decide
theorem test_decode_seekDiscard : decode 0xAA 0b0_000_01_01010101 = .seekDiscard 0x55 ∧
    decode 0x7E 0b0_000_01_10101010 = .seekDiscard 0xAA := by decide
theorem test_decode_hdrType : decode 0xAA 0b0_001_01_00000010 = .hdrType 0x02 := by decide
theorem test_decode_hdrLen : decode 0xAA 0b0_010_01_00000100 = .hdrLen 0x04 := by decide
theorem test_decode_payByte : decode 0xAA 0b0_011_01_11010010 = .payByte 0xD2 := by decide
theorem test_decode_chkByte : decode 0xAA 0b0_100_01_01111000 = .chkByte 0x78 := by decide

/-- A table word is laid out in two bytes, the first one bits 7..0; a word of more than 14 bits is rejected by name. -/
theorem test_decodeTableWord : decodeTableWord 16 0x1178 = some (.chkByte 0x78) ∧
    decodeTableWord 16 0x2000 = some (.stall .seekStart .idle 0x00) ∧ decodeTableWord 16 0x4000 = none := by decide
theorem test_decodeBytes_rejects : decodeBytes 0xAA [0x78] = .error .truncated ∧
    decodeBytes 0xAA [0x78, 0x40] = .error .notADecodeWord := ⟨rfl, rfl⟩
/-- CHK.MATCH and CHK.MISMATCH have CHK.BYTE's pattern (42_checksum.md R93); a control operation has none. -/
theorem test_encode : encode 0xAA (.chkMatch 0x78) = some 0x1178 ∧ encode 0xAA (.chkMismatch 0x79) = some 0x1179 ∧
    encode 0xAA .seekMarker = some 0x01AA ∧ encode 0xAA .reset = none := by decide
/-- The word that `withFetchWord` places is the one the next step runs (41_header_payload.md R86). -/
theorem test_withFetchWord : after (step (State.reset.withFetchWord 16 0x0502)) (fun t =>
    t.type == 0x02 && t.st == .readHeaderLen) = true := by decide

/-! ### One step of each operation -/

/-- V-K2: `B AA` gives `ACC = 0xAA` in `READ_HEADER_TYPE`. -/
theorem test_seekMarker : after (exec .seekMarker (inSt .seekStart)) (fun t =>
    t.st == .readHeaderType && t.acc == 0xAA && t.type == 0x00) = true := by decide
/-- V-K1: `B 55` is discarded. -/
theorem test_seekDiscard : after (exec (.seekDiscard 0x55) (inSt .seekStart)) (· == inSt .seekStart) = true := by decide
/-- V-K3: `SHORT` while seeking changes nothing. -/
theorem test_seekShort : after (exec (.seekShort 0x00) (inSt .seekStart)) (· == inSt .seekStart) = true := by decide
/-- R86: after `B AA`, `B 01` gives `TYPE = 0x01`, `ACC = 0xAB`. -/
theorem test_hdrType : after (exec (.hdrType 0x01) { inSt .readHeaderType with acc := 0xAA }) (fun t =>
    t.type == 0x01 && t.acc == 0xAB && t.st == .readHeaderLen && t.len == 0x00) = true := by decide
/-- R87: after `B AA; B 01`, `B 04` gives `LEN = 4`, `CNT = 0`, `ACC = 0xAF`, `READ_PAYLOAD`. -/
theorem test_hdrLen : after (exec (.hdrLen 0x04) { inSt .readHeaderLen with type := 0x01, acc := 0xAB, cnt := 0x09 })
    (fun t => t.len == 0x04 && t.cnt == 0x00 && t.acc == 0xAF && t.st == .readPayload) = true := by decide
/-- R87, R90: a zero length goes to the checksum. -/
theorem test_hdrLen_zero : after (exec (.hdrLen 0x00) { inSt .readHeaderLen with acc := 0xAB }) (fun t =>
    t.st == .readChecksum && t.acc == 0xAB) = true := by decide
/-- R88: with `LEN = 2`, `CNT = 0`, `ACC = 0xAA`, `B D2` gives `PBUF[0] = 0xD2`, `CNT = 1`, `ACC = 0x78`. -/
theorem test_payByte : after (exec (.payByte 0xD2) { inSt .readPayload with len := 2, acc := 0xAA }) (fun t =>
    t.pbuf == [(0, 0xD2)] && t.cnt == 1 && t.acc == 0x78 && t.st == .readPayload) = true := by decide
/-- R88: the last payload byte, at the last index of `PBUF`, moves to the checksum. -/
theorem test_payByte_last : after (exec (.payByte 0xAA) { inSt .readPayload with len := 255, cnt := 254 }) (fun t =>
    t.pbuf == [(254, 0xAA)] && t.cnt == 255 && t.st == .readChecksum) = true := by decide
/-- R94: `FRAME 02, [D2, 00]` ends with `VALID_READING{type 0x02, len 2, value 0x000000D2}`. -/
theorem test_chkByte : after (exec (.chkByte 0x78) (atChecksum 0x02 [(0, 0xD2), (1, 0x00)] 2 0x78)) (fun t =>
    t.evqV && t.st == .seekStart && t.acc == 0x78 &&
      t.evq == { kind := .validReading, type := 0x02, len := 2, value := 0x000000D2, payload := [0xD2, 0x00] }) = true := by
  decide
/-- R95: the checksum byte 0x79 gives `CHECKSUM_MISMATCH{recv 0x79, calc 0x78}`. -/
theorem test_chkByte_wrong : after (exec (.chkByte 0x79) (atChecksum 0x02 [(0, 0xD2), (1, 0x00)] 2 0x78)) (fun t =>
    t.evq == { kind := .checksumMismatch, recv := 0x79, calcd := 0x78 }) = true := by decide
theorem test_chkMatch : after (exec (.chkMatch 0x54) (atChecksum 0xFF [(0, 0x00)] 1 0x54)) (fun t =>
    t.evqV && t.evq == { kind := .unknownSensorType, type := 0xFF }) = true := by decide
theorem test_chkMismatch : after (exec (.chkMismatch 0x00) (atChecksum 0xAA [(0, 0x02), (1, 0xD2)] 2 0xD2)) (fun t =>
    t.evqV && t.evq == { kind := .checksumMismatch, recv := 0x00, calcd := 0xD2 }) = true := by decide
/-- R99: `FRAME FF, [00]`. -/
theorem test_dispUnknown : after (exec .dispUnknown (atChecksum 0xFF [(0, 0x00)] 1 0x54)) (fun t =>
    t.evq == { kind := .unknownSensorType, type := 0xFF } && t.st == .seekStart) = true := by decide
/-- R100: `FRAME 01, [00, 00]` gives `exp_w 4, act_w 2`. -/
theorem test_dispMalformed : after (exec .dispMalformed (atChecksum 0x01 [(0, 0x00), (1, 0x00)] 2 0xA9)) (fun t =>
    t.evq == { kind := .malformedPayload, type := 0x01, expW := 4, actW := 2 }) = true := by decide
/-- R102: `FRAME 01, [00, 00, BC, 41]` gives `value = 0x41BC0000`. -/
theorem test_dispTemperature : after (exec .dispTemperature
    (atChecksum 0x01 [(0, 0x00), (1, 0x00), (2, 0xBC), (3, 0x41)] 4 0x52)) (fun t =>
      t.evq.value == 0x41BC0000 && t.evq.payload == [0x00, 0x00, 0xBC, 0x41] && t.evqV) = true := by decide
/-- R103: the first byte is the low one, and the value is not sign-extended. -/
theorem test_dispHumidity : after (exec .dispHumidity (atChecksum 0x02 [(0, 0x34), (1, 0xF2)] 2 0x00)) (fun t =>
    t.evq.value == 0x0000F234 && t.evq.len == 2) = true := by decide
/-- R104: kind, type, length and payload; the value is the uninterpreted parameter's. -/
theorem test_dispExt : after (exec .dispExt { atChecksum 0x07 [(0, 0x11)] 1 0x00 with params := extParams 1 })
    (fun t => t.evq.kind == .validReading && t.evq.type == 0x07 && t.evq.len == 1 && t.evq.payload == [0x11]) = true := by
  decide
theorem test_stall : after (exec (.stall .seekStart .err 0x00) (waiting .seekStart { kind := .shortRead }))
    (· == waiting .seekStart { kind := .shortRead }) = true := by decide
theorem test_rsvState : faultsWith (exec (.rsvState .reserved7 .byte 0x01) (inSt .reserved7)) .reservedState = true := by
  decide
theorem test_stoppedHold : after (exec (.stoppedHold .byte 0xAA) (inSt .stopped)) (· == inSt .stopped) = true := by
  decide
/-- R110: in `READ_PAYLOAD` with `CNT = 1`, `I` leaves `CNT = 1`. -/
theorem test_idle : after (exec (.idle .readPayload 0x00) { inSt .readPayload with len := 2, cnt := 1 }) (fun t =>
    t.cnt == 1 && t.st == .readPayload) = true := by decide
/-- R109: `B AA; E 07` ends with `STREAM_ERROR{detail 0x07}` in `STOPPED`. -/
theorem test_streamErr : after (exec (.streamErr .readHeaderType 0x07) { inSt .readHeaderType with acc := 0xAA })
    (fun t => t.st == .stopped && t.evqV && t.evq == { kind := .streamError, detail := 0x07 } && t.acc == 0xAA) = true := by
  decide
/-- R107: `B AA; B 01; S` leaves `SEEK_START` and no event. -/
theorem test_fieldShort : after (exec (.fieldShort .readHeaderLen 0x00) { inSt .readHeaderLen with type := 0x01 })
    (fun t => t.st == .seekStart && !t.evqV && t.type == 0x01) = true := by decide
/-- E7: `SHORT_READ{field 3, exp_w 0xC8, act_w 0x05}` with the diagnostic switched on. -/
theorem test_fieldShort_diag : after (exec (.fieldShort .readPayload 0x00)
    { inSt .readPayload with len := 0xC8, cnt := 5, params := diagParams }) (fun t =>
      t.st == .seekStart && t.evqV && t.evq == { kind := .shortRead, field := 3, expW := 0xC8, actW := 5 }) = true := by
  decide
theorem test_evDrain : after (exec .evDrain (waiting .stopped { kind := .streamError, detail := 7 })) (fun t =>
    !t.evqV && t.evq.detail == 7 && t.st == .stopped) = true := by decide
/-- R129: in `STOPPED` with a pending `STREAM_ERROR`, `RST` gives `SEEK_START` and no event; `PBUF` is kept. -/
theorem test_reset : after (exec .reset { waiting .stopped { kind := .streamError } with pbuf := [(0, 0x11)] }) (fun t =>
    t.st == .seekStart && !t.evqV && t.pbuf == [(0, 0x11)]) = true := by decide
/-- R114: a step with an event pending drains it and consumes nothing. -/
theorem test_step_drains : after (step { waiting .seekStart { kind := .shortRead } with inputs := [sym .byte 0xAA] })
    (fun t => !t.evqV && t.st == .seekStart && t.evq.kind == .shortRead) = true := by decide

/-! ### Witnesses: the hypotheses of the statements can be met, each clause at its boundary -/

/-- The checksum state of `FRAME 02, [D2, 00]`. -/
def humid : State := atChecksum 0x02 [(0, 0xD2), (1, 0x00)] 2 0x78
/-- The checksum state of `FRAME 01, [00, 00, BC, 41]`. -/
def warm : State := atChecksum 0x01 [(0, 0x00), (1, 0x00), (2, 0xBC), (3, 0x41)] 4 0x52

theorem wit_DecodeOfEncode : (Instr.fieldShort .readChecksum 0xFF).wellFormed 0xAA = true ∧
    (Instr.fieldShort .readChecksum 0xFF).hasOwnWord = true ∧
    encode 0xAA (.fieldShort .readChecksum 0xFF) = some 0x12FF := by decide
theorem wit_StepRuns_next : (inSt .seekStart).params.legal = true ∧
    { inSt .seekStart with inputs := [sym .byte 0xAA] }.nextInput = sym .byte 0xAA ∧
    decode 0xAA (mkDecodeWord false .seekStart .byte 0xAA) = .seekMarker ∧
    after (exec .seekMarker (inSt .seekStart).takeInput) (fun _ => true) = true := by decide
theorem wit_StepRuns_drain : (waiting .stopped {}).evqV = true ∧ (sym .idle 0x00).evReady = true ∧
    (sym .idle 0x00).rst = false ∧
    decode 0xAA (mkDecodeWord true .stopped .idle 0x00) = .stall .stopped .idle 0x00 ∧
    after (exec (.stall .stopped .idle 0x00) (waiting .stopped {}).takeInput) (fun _ => true) = true := by decide
theorem wit_StepRuns_fault : decode 0xAA (mkDecodeWord false .reserved6 .idle 0x00) = .rsvState .reserved6 .idle 0x00 ∧
    faultsWith (exec (.rsvState .reserved6 .idle 0x00) (inSt .reserved6).takeInput) .reservedState = true := by decide
theorem wit_ResetStep : (waiting .stopped {}).params.legal = true ∧
    { waiting .stopped {} with inputs := [rstInput] }.nextInput.rst = true := by decide
theorem wit_IllegalRegistry_doubled : ¬ (doubledType.registry.map Prod.fst).Nodup := by decide
theorem wit_IllegalRegistry_width :
    (∃ e ∈ narrowTemperature.registry, e.2.kind = .f32le ∧ e.2.width ≠ 4) ∧
      ∃ e ∈ wideHumidity.registry, e.2.kind = .u16le ∧ e.2.width ≠ 2 := by decide
theorem wit_SeekMarker : (inSt .seekStart).evqV = false ∧ (inSt .seekStart).st = .seekStart := by decide
theorem wit_SeekDiscard : (inSt .seekStart).evqV = false ∧ (inSt .seekStart).st = .seekStart ∧
    (0xAB : Byte) ≠ (inSt .seekStart).params.marker := by decide
theorem wit_SeekShort : (inSt .seekStart).evqV = false ∧ (inSt .seekStart).st = .seekStart := by decide
theorem wit_HdrType : (inSt .readHeaderType).evqV = false ∧ (inSt .readHeaderType).st = .readHeaderType := by decide
theorem wit_HdrLen : (inSt .readHeaderLen).evqV = false ∧ (inSt .readHeaderLen).st = .readHeaderLen ∧
    (0x00 : Byte) = 0 ∧ (0xFF : Byte) ≠ 0 := by decide
/-- `CNT` at 254, with the byte the last one, and at 0, with more to come. -/
theorem wit_PayByte : ({ inSt .readPayload with cnt := 254, len := 255 } : State).cnt.toNat < 255 ∧
    ({ inSt .readPayload with cnt := 254, len := 255 } : State).evqV = false ∧
    ((254 : Byte) + 1 = 255) ∧ ((0 : Byte) + 1 ≠ 2) ∧ ({ inSt .readPayload with len := 2 } : State).cnt.toNat < 255 := by
  decide
theorem wit_PayByte255 : ({ inSt .readPayload with cnt := 255 } : State).evqV = false ∧
    ({ inSt .readPayload with cnt := 255 } : State).st = .readPayload ∧
    ({ inSt .readPayload with cnt := 255 } : State).cnt = 255 := by decide
theorem wit_ChkByteCompares : humid.evqV = false ∧ humid.st = .readChecksum ∧ (0x78 : Byte) = humid.acc ∧
    (0x79 : Byte) ≠ humid.acc := by decide
theorem wit_ChkByteRaises : humid.params.legal = true ∧ humid.evqV = false ∧ humid.st = .readChecksum ∧
    humid.payload = some [0xD2, 0x00] ∧ (inSt .readChecksum).payload = some [] := by decide
theorem wit_ChkMatch : humid.evqV = false ∧ humid.st = .readChecksum ∧ (0x78 : Byte) = humid.acc ∧
    humid.payload = some [0xD2, 0x00] ∧
    dispatch humid.params humid.type humid.len [0xD2, 0x00] = some
      { kind := .validReading, type := 0x02, len := 2, value := 0x000000D2, payload := [0xD2, 0x00] } := by decide
/-- One state for each row of 30_encoding.md R77. -/
theorem wit_ChkMatchRow : Params.thisHardware.registry.find 0xFF = none ∧
    Params.thisHardware.registry.find 0x01 = some Config.temperature ∧ (2 : Byte) ≠ Config.temperature.width ∧
    (4 : Byte) = Config.temperature.width ∧ Config.temperature.kind = .f32le ∧
    Params.thisHardware.registry.find 0x02 = some Config.humidity ∧ (2 : Byte) = Config.humidity.width ∧
    Config.humidity.kind = .u16le ∧
    (extParams 0).registry.find 0x07 = some { name := "X", width := 0, unit := "u", kind := .ext } := by decide
theorem wit_ChkMismatch : humid.evqV = false ∧ humid.st = .readChecksum ∧ (0x79 : Byte) ≠ humid.acc := by decide
theorem wit_DispatchIsTotal : Params.thisHardware.legal = true ∧ ([] : List Byte).length = (0 : Byte).toNat ∧
    (List.replicate 255 (0 : Byte)).length = (255 : Byte).toNat := ⟨by decide, rfl, List.length_replicate⟩
theorem wit_DispUnknown : (atChecksum 0xFF [] 255 0).evqV = false ∧ (atChecksum 0xFF [] 255 0).st = .readChecksum ∧
    (atChecksum 0xFF [] 255 0).params.registry.find (atChecksum 0xFF [] 255 0).type = none := by decide
theorem wit_DispMalformed : (atChecksum 0x01 [] 0 0).evqV = false ∧ (atChecksum 0x01 [] 0 0).st = .readChecksum ∧
    (atChecksum 0x01 [] 0 0).params.registry.find (atChecksum 0x01 [] 0 0).type = some Config.temperature ∧
    (atChecksum 0x01 [] 0 0).len ≠ Config.temperature.width := by decide
theorem wit_DispTemperature : warm.evqV = false ∧ warm.st = .readChecksum ∧
    warm.params.registry.find warm.type = some Config.temperature ∧ Config.temperature.kind = .f32le ∧
    Config.temperature.width = 4 ∧ warm.len = 4 ∧ warm.pbuf.read 0 = some 0x00 ∧ warm.pbuf.read 1 = some 0x00 ∧
    warm.pbuf.read 2 = some 0xBC ∧ warm.pbuf.read 3 = some 0x41 := by decide
theorem wit_DispHumidity : humid.evqV = false ∧ humid.st = .readChecksum ∧
    humid.params.registry.find humid.type = some Config.humidity ∧ Config.humidity.kind = .u16le ∧
    Config.humidity.width = 2 ∧ humid.len = 2 ∧ humid.pbuf.read 0 = some 0xD2 ∧ humid.pbuf.read 1 = some 0x00 := by decide
/-- An extension of width 0, whose payload is empty. -/
def ext0 : State := { atChecksum 0x07 [] 0 0 with params := extParams 0 }
theorem wit_DispExt : ext0.evqV = false ∧ ext0.st = .readChecksum ∧ ext0.payload = some [] ∧
    ext0.params.registry.find ext0.type = some { name := "X", width := 0, unit := "u", kind := .ext } ∧
    ext0.len = 0 := by decide
/-- `PBUF[1]` unwritten in a humidity frame. -/
def holed : State := atChecksum 0x02 [(0, 0xD2)] 2 0x78
theorem wit_UnwrittenPayload : holed.params.legal = true ∧ holed.evqV = false ∧ holed.st = .readChecksum ∧
    (0x78 : Byte) = holed.acc ∧ holed.params.registry.find holed.type = some Config.humidity ∧
    holed.len = Config.humidity.width ∧ 1 < holed.len.toNat ∧ holed.pbuf.read 1 = none := by decide
theorem wit_Stall : (waiting .reserved7 {}).evqV = true ∧ (waiting .readPayload {}).evqV = true := by decide
theorem wit_StoppedHold : (inSt .stopped).evqV = false ∧ (inSt .stopped).st = .stopped := by decide
theorem wit_Idle : (inSt .seekStart).evqV = false ∧ (inSt .seekStart).st.code.toNat ≤ 4 ∧
    (inSt .readChecksum).st.code.toNat ≤ 4 := by decide
theorem wit_StreamErr : (inSt .seekStart).evqV = false ∧ (inSt .seekStart).st.code.toNat ≤ 4 ∧
    (inSt .readChecksum).st.code.toNat ≤ 4 := by decide
theorem wit_FieldShort : (inSt .readHeaderType).evqV = false ∧ 1 ≤ (inSt .readHeaderType).st.code.toNat ∧
    (inSt .readChecksum).st.code.toNat ≤ 4 ∧ (inSt .readPayload).st = .readPayload ∧
    (inSt .readHeaderLen).st = .readHeaderLen ∧ (inSt .readHeaderType).params.shortReadEvent = false ∧
    diagParams.shortReadEvent = true := by decide
theorem wit_EvDrain : (waiting .stopped {}).evqV = true ∧ (inSt .seekStart).evqV = false ∧
    (sym .byte 0x11).evReady ≠ ({ sym .byte 0x11 with evReady := false } : Input).evReady := by decide
theorem wit_ReservedState : (inSt .reserved6).params.legal = true ∧ (inSt .reserved6).evqV = false ∧
    (inSt .reserved6).st = .reserved6 ∧ (inSt .reserved7).st = .reserved7 ∧
    ({ inSt .reserved6 with inputs := [sym .idle 0] } : State).nextInput.rst = false := by decide
theorem wit_BuiltinRegistry : (0x00 : Byte) ≠ 0x01 ∧ (0x00 : Byte) ≠ 0x02 ∧ (0xFF : Byte) ≠ 0x01 ∧
    (0x03 : Byte) ≠ 0x02 := by decide
theorem wit_PortsShow : (inSt .seekStart).st = .seekStart ∧ (inSt .readHeaderType).st = .readHeaderType ∧
    (inSt .readHeaderLen).st = .readHeaderLen ∧ (inSt .readPayload).st = .readPayload ∧
    (inSt .readChecksum).st = .readChecksum ∧ (inSt .stopped).st = .stopped ∧ (waiting .stopped {}).evqV = true := by
  decide

/-- The state after `FRAME 02, [D2, 00]`: its reading waits. -/
def read0 : State :=
  { humid with st := .seekStart, evqV := true,
               evq := { kind := .validReading, type := 0x02, len := 2, value := 0x000000D2, payload := [0xD2, 0x00] } }

theorem inv_read0 : Inv read0 where
  legal := by decide
  pbufWf := by decide
  progress := trivial
  pending := fun _ => ⟨⟨rfl, rfl, Config.humidity, rfl, rfl, rfl⟩, rfl⟩
  pendingPayload := fun _ _ => rfl

theorem wit_PayloadPort : Inv read0 ∧ read0.evqV = true ∧ read0.evq.kind = .validReading ∧
    (0x00 : Byte).toNat < read0.evq.len.toNat ∧ (0x01 : Byte).toNat < read0.evq.len.toNat :=
  ⟨inv_read0, by decide⟩

/-- The checksum state of `FRAME 02, [D2, 00]`, its checksum byte the next input. -/
def humidNext : State := { humid with inputs := [sym .byte 0x78] }

theorem inv_humidNext : Inv humidNext where
  legal := by decide
  pbufWf := by decide
  progress := ⟨rfl, [0xD2, 0x00], rfl, rfl⟩
  pending := fun h => absurd h (by decide)
  pendingPayload := fun h => absurd h (by decide)

theorem step_humidNext : step humidNext = .next { read0 with tick := 1 } := rfl

theorem wit_EveryStepKeepsInv : Inv humidNext ∧ step humidNext = .next { read0 with tick := 1 } :=
  ⟨inv_humidNext, step_humidNext⟩
theorem wit_NoReachableStepStops : Inv humidNext := inv_humidNext
theorem wit_NoStepIsRefused : humidNext.params.legal = true := by decide
/-- Each clause's premise, at one operation that has it and changes another register. -/
theorem wit_WritersOfTheDatapath :
    after (exec (.payByte 0xD2) { inSt .readPayload with len := 2 }) (fun t => t.cnt == 1 && t.type == 0) = true ∧
    after (exec .seekMarker (inSt .seekStart)) (fun t => t.acc == 0xAA && t.cnt == 0) = true ∧
    after (exec (.hdrType 0x02) (inSt .readHeaderType)) (fun t => t.type == 0x02 && t.len == 0) = true := by decide
theorem wit_NoStepWritesTheParameters : step humidNext = .next { read0 with tick := 1 } := step_humidNext

/-- A payload byte to come. -/
def payNext : State := { inSt .readPayload with len := 2, acc := 0xAA, inputs := [sym .byte 0xD2] }

theorem wit_PbufIsWritten : step payNext = .next { payNext with pbuf := [(0, 0xD2)], acc := 0x78, cnt := 1, inputs := [], tick := 1 } ∧
    Memory.read [(0, 0xD2)] 0 ≠ payNext.pbuf.read 0 := ⟨rfl, by decide⟩
theorem wit_OnlyResetLeavesStopped : (inSt .stopped).st = .stopped ∧
    step { inSt .stopped with inputs := [sym .byte 0xAA] } = .next { inSt .stopped with tick := 1 } ∧
    ({ inSt .stopped with inputs := [sym .byte 0xAA] } : State).nextInput.rst = false := ⟨rfl, rfl, rfl⟩

/-- `ERR` presented in a field state. -/
def errNext : State := { inSt .readChecksum with inputs := [sym .err 0x07] }

theorem step_errNext : step errNext =
    .next { inSt .stopped with evq := { kind := .streamError, detail := 0x07 }, evqV := true, tick := 1 } := rfl

theorem wit_OnlyStreamErrorStops : errNext.st ≠ .stopped ∧
    step errNext =
      .next { inSt .stopped with evq := { kind := .streamError, detail := 0x07 }, evqV := true, tick := 1 } :=
  ⟨by decide, step_errNext⟩
theorem wit_EventsAreRaised : step humidNext = .next { read0 with tick := 1 } ∧ humidNext.nextInput.rst = false ∧
    read0.evqV = true ∧ humidNext.evqV = false ∧ read0.evq ≠ humidNext.evq := ⟨step_humidNext, by decide⟩
theorem wit_PendingEventWaits : read0.params.legal = true ∧ read0.evqV = true ∧
    ({ read0 with inputs := [sym .err 0x01] } : State).nextInput.rst = false := by decide
theorem wit_UnconsumedSymbol : (inSt .stopped).inReady = false ∧ (waiting .seekStart {}).inReady = false ∧
    (inSt .reserved7).inReady = false ∧ (sym .byte 0xAA).rst = (sym .err 0x01).rst ∧
    (sym .byte 0xAA).evReady = (sym .err 0x01).evReady := by decide
theorem wit_DataIsIgnored : (sym .short 0x00).inKind = (sym .short 0xFF).inKind ∧ (sym .short 0xFF).inKind = .short ∧
    (sym .idle 0x00).inKind = (sym .idle 0xFF).inKind ∧ (sym .idle 0xFF).inKind = .idle ∧
    (sym .idle 0x00).rst = (sym .idle 0xFF).rst := by decide
theorem wit_RaisedEventDecides : step errNext =
      .next { inSt .stopped with evq := { kind := .streamError, detail := 0x07 }, evqV := true, tick := 1 } ∧
    errNext.evqV = false ∧ step humidNext = .next { read0 with tick := 1 } ∧ humidNext.evqV = false ∧
    read0.evq.kind ≠ .streamError := ⟨step_errNext, rfl, step_humidNext, by decide⟩

/-! ### Witnesses for the frame statements -/

/-- The reset state with the bytes of a sequence to come. -/
def fed (bs : List Byte) : State := { State.reset with inputs := bytesIn bs }

/-- A well-formed frame, a frame with a wrong checksum, and the two boundary lengths 0 and 255. -/
theorem wit_FrameAttempt :
    (fed (attemptBytes 0xAA 0x02 2 [0xD2, 0x00] 0x78)).params.legal = true ∧
    delivers (bytesIn (attemptBytes 0xAA 0x02 2 [0xD2, 0x00] 0x78)) (attemptBytes 0xAA 0x02 2 [0xD2, 0x00] 0x78) = true ∧
    (0x78 : Byte) = checksum 0xAA 0x02 2 [0xD2, 0x00] ∧ (0x79 : Byte) ≠ checksum 0xAA 0x02 2 [0xD2, 0x00] ∧
    ([0xD2, 0x00] : List Byte).length = (2 : Byte).toNat := by decide
theorem wit_FrameAttempt_longest : (List.replicate 255 (0 : Byte)).length = (255 : Byte).toNat ∧
    delivers (bytesIn (attemptBytes 0xAA 0x07 255 (List.replicate 255 0) 0x52))
      (attemptBytes 0xAA 0x07 255 (List.replicate 255 0) 0x52) = true := ⟨List.length_replicate, delivers_bytesIn _⟩

/-- `FRAME 02, [D2, 00]` with bit `j` of byte `k` changed. -/
def flipped (k j : Nat) : List Byte := (frameBytes 0xAA 0x02 [0xD2, 0x00]).modify k (fun b => b ^^^ (1#8 <<< j))

/-- Bit 0 of the type, bit 7 of the last payload byte and bit 3 of the checksum byte. -/
theorem wit_OneFlippedBit : (fed (flipped 1 0)).params.legal = true ∧ (fed (flipped 1 0)).evqV = false ∧
    (fed (flipped 1 0)).st = .seekStart ∧ (fed (flipped 1 0)).inputs = bytesIn (flipped 1 0) ++ [] ∧
    1 < 4 + [(0xD2 : Byte), 0x00].length ∧ 0 < 8 ∧ 4 < 4 + [(0xD2 : Byte), 0x00].length ∧ 7 < 8 ∧
    5 < 4 + [(0xD2 : Byte), 0x00].length ∧ delivers (bytesIn (flipped 1 0)) (flipped 1 0) = true ∧
    delivers (bytesIn (flipped 4 7)) (flipped 4 7) = true ∧ delivers (bytesIn (flipped 5 3)) (flipped 5 3) = true := by
  decide
theorem wit_Noise : (fed [0x00, 0xFF, 0x7E]).params.legal = true ∧ (fed [0x00, 0xFF, 0x7E]).evqV = false ∧
    (fed [0x00, 0xFF, 0x7E]).st = .seekStart ∧ delivers (bytesIn [0x00, 0xFF, 0x7E]) [0x00, 0xFF, 0x7E] = true ∧
    ∀ b ∈ [(0x00 : Byte), 0xFF, 0x7E], b ≠ (fed [0x00, 0xFF, 0x7E]).params.marker := by decide

/-- The frame attempt of `humidNext`: one symbol is left. -/
theorem wit_FrameAttemptEnds : Inv humidNext ∧ humidNext.st.isField = true ∧ (∀ i ∈ humidNext.inputs, i.rst = false) ∧
    humidNext.remaining ≤ (humidNext.inputs.filter fun i => i.inKind ≠ .idle).length := ⟨inv_humidNext, by decide⟩

/-- A sink that is not ready. -/
def notReady : Input := { sym .byte 0xAA with evReady := false }

theorem wit_StallLasts : read0.params.legal = true ∧ read0.evqV = true ∧
    (∀ j ∈ [notReady, notReady, sym .byte 0xAA].take 2, j.rst = false ∧ j.evReady = false) ∧
    [notReady, notReady, sym .byte 0xAA][2]? = some (sym .byte 0xAA) ∧ (sym .byte 0xAA).rst = false ∧
    (sym .byte 0xAA).evReady = true := by decide
theorem wit_ChecksumLaws : ([0xD2, 0x00] : List Byte).Perm [0x00, 0xD2] := .swap _ _ _
theorem wit_FrameBytesFold : ([] : List Byte).length ≤ 255 ∧ (List.replicate 255 (0 : Byte)).length ≤ 255 :=
  ⟨by decide, le_of_eq List.length_replicate⟩

/-! ### The environment's duties and the stimulus notation -/

/-- R80, V-C1: `FRAME 02, [D2, 00]` takes six steps, and the sink has not taken its event yet. -/
theorem test_drive : (drive 9 true (frameLines 0xAA 0x02 [0xD2, 0x00])
    { state := State.reset, taken := [], steps := 0 }).map (fun x => (x.steps, x.taken.length, x.state.evqV)) =
      some (6, 0, true) := by decide

/-- A schedule that holds an unconsumed byte and takes the event meets the duties for two steps; no read is answered. -/
theorem test_meetsDuties : meetsDuties [] 2 2 { read0 with inputs := [notReady, sym .byte 0xAA, sym .byte 0xAA] } := by
  refine ⟨⟨⟨fun _ _ _ _ => by decide, fun h => absurd h (by decide), fun _ => ⟨1, by decide, .inr (by decide)⟩⟩,
    ⟨fun _ _ _ _ => by decide, fun h => absurd h (by decide), fun _ => ⟨0, by decide, .inr (by decide)⟩⟩, trivial⟩,
    by decide⟩

/-- R73, R134: the data bits of a held `SHORT` are free, those of a held byte are not. -/
theorem test_sameSymbol : sameSymbol (.short, 0x00) (.short, 0xFF) = true ∧
    sameSymbol (.byte, 0x00) (.byte, 0xFF) = false ∧ sameSymbol (.short, 0x00) (.idle, 0x00) = false := by decide

/-- R15: `read(1)`, `read(2)`, `read(2)`, `read(1)` answered in full, the payload in two chunks with `IDLE` between. -/
theorem test_answersReads : answersReads 7 [] [.bytes [0xAA], .bytes [0x02, 0x02], .bytes [0xD2, 0x00], .bytes [0x78]]
    { State.reset with inputs := bytesIn [0xAA, 0x02, 0x02, 0xD2] ++ sym .idle 0 :: bytesIn [0x00, 0x78] } = true := by
  decide

/-- R138: a `SHORT` after the first header byte breaks the duty when the read returned both, not when it returned one. -/
theorem test_answersReads_short :
    answersReads 3 [] [.bytes [0xAA], .bytes [0x01, 0x04]]
      { State.reset with inputs := [sym .byte 0xAA, sym .byte 0x01, sym .short 0x00] } = false ∧
    answersReads 3 [] [.bytes [0xAA], .bytes [0x01]]
      { State.reset with inputs := [sym .byte 0xAA, sym .byte 0x01, sym .short 0x7F] } = true := by decide

/-- R133: `ERR` at any point of a frame. V-S7 and V-S9: after one of two payload bytes, and after five of 200. -/
theorem test_answersReads_err :
    answersReads 5 [] [.bytes [0xAA], .bytes [0x02, 0x02], .error [0xD2] 0x01]
      { State.reset with inputs := bytesIn [0xAA, 0x02, 0x02, 0xD2] ++ [sym .err 0x01] } = true ∧
    answersReads 9 [] [.bytes [0xAA], .bytes [0x01, 0xC8], .error [0, 1, 2, 3, 4] 0x00]
      { State.reset with inputs := bytesIn [0xAA, 0x01, 0xC8, 0, 1, 2, 3, 4] ++ [sym .err 0x00] } = true := by decide

/-- `ERR` before the first byte of a field, between the header bytes, and after a field read in full. -/
theorem test_answersReads_err_edges :
    answersReads 2 [] [.bytes [0xAA], .error [] 0x07] { State.reset with inputs := [sym .byte 0xAA, sym .err 0x07] } = true ∧
    answersReads 3 [] [.bytes [0xAA], .error [0x01] 0x07]
      { State.reset with inputs := [sym .byte 0xAA, sym .byte 0x01, sym .err 0x07] } = true ∧
    answersReads 4 [] [.bytes [0xAA], .error [0x01, 0x02] 0x07]
      { State.reset with inputs := bytesIn [0xAA, 0x01, 0x02] ++ [sym .err 0x07] } = true := by decide

end Sys2Proof.Machine
end

/-! The output ports as functions of the state (10_state.md R33 to R37). -/

namespace Sys2Proof.Machine

/-- When the block takes a symbol (10_state.md R33). -/
theorem State.inReady_iff (s : State) :
    s.inReady = true ↔ s.evqV = false ∧ s.st ≠ .stopped ∧ s.st.code.toNat ≤ 4 := by
  simp [State.inReady, State.isStopped, and_assoc]

/-! ### The rows of the table of 10_state.md R34 -/

theorem State.need_of_seekStart {s : State} (h : s.st = .seekStart) : s.need = 1 := by
  simp [State.need, h]

theorem State.need_of_readHeaderType {s : State} (h : s.st = .readHeaderType) : s.need = 2 := by
  simp [State.need, h, Config.hdrBytes]

theorem State.need_of_readHeaderLen {s : State} (h : s.st = .readHeaderLen) : s.need = 1 := by
  simp [State.need, h]

theorem State.need_of_readPayload {s : State} (h : s.st = .readPayload) : s.need = s.len - s.cnt := by
  simp [State.need, h]

theorem State.need_of_readChecksum {s : State} (h : s.st = .readChecksum) : s.need = 1 := by
  simp [State.need, h]

theorem State.need_of_stopped {s : State} (h : s.st = .stopped) : s.need = 0 := by
  simp [State.need, h]

/-- The `ev_*` ports show the pending record (10_state.md R35). -/
theorem State.evPorts_of_pending {s : State} (h : s.evqV = true) : s.evPorts = eventPorts s.evq := by
  simp [State.evPorts, h]

/-- Settles O37: each port is the function of the state that the lemmas above describe. -/
theorem portsShowTheState : Obligations.PortsShowTheState := by
  intro s a
  exact ⟨s.inReady_iff, rfl, rfl, State.need_of_seekStart, State.need_of_readHeaderType, State.need_of_readHeaderLen,
    State.need_of_readPayload, State.need_of_readChecksum, State.need_of_stopped, State.evPorts_of_pending⟩

end Sys2Proof.Machine

/-! What one operation can do to the state, said once: it changes only `ST` and `EVQ`, or it is one of the five that
write the datapath (10_state.md R18 to R22). -/

namespace Sys2Proof.Machine

/-- An update of `ST` and `EVQ` alone: the four forms in which an operation leaves the datapath as it is. -/
inductive ControlUpdate (s : State) : State → Prop where
  | unchanged : ControlUpdate s s
  | drained : ControlUpdate s s.clearEvent
  | abandoned : ControlUpdate s (s.setSt .seekStart)
  | raised (e : Event) : ControlUpdate s (s.raise e)

/-- What an operation that answers a next state has done. A constructor that names an operation which writes the
datapath carries that operation's guard. -/
inductive ExecEffect (s : State) : Instr → State → Prop where
  | control {i : Instr} {t : State} (h : ControlUpdate s t) : ExecEffect s i t
  | seekMarker (hv : s.evqV = false) (hst : s.st = .seekStart) :
      ExecEffect s .seekMarker ((s.setSt .readHeaderType).setAcc s.params.marker)
  | hdrType {b : Byte} (hv : s.evqV = false) (hst : s.st = .readHeaderType) :
      ExecEffect s (.hdrType b) (((s.setType b).setAcc (s.acc ^^^ b)).setSt .readHeaderLen)
  | hdrLen {b : Byte} (hv : s.evqV = false) (hst : s.st = .readHeaderLen) :
      ExecEffect s (.hdrLen b)
        ((((s.setLen b).setCnt 0x00).setAcc (s.acc ^^^ b)).setSt (if b = 0x00 then .readChecksum else .readPayload))
  | payByte {b : Byte} (hv : s.evqV = false) (hst : s.st = .readPayload) (hcnt : s.cnt.toNat < Config.payloadMax) :
      ExecEffect s (.payByte b)
        ((((s.setPbuf s.cnt.toNat b).setAcc (s.acc ^^^ b)).setCnt (s.cnt + 1)).setSt
          (if s.cnt + 1 = s.len then .readChecksum else .readPayload))
  | reset : ExecEffect s .reset s.resetState

/-! ### One inversion lemma for each kind of meaning -/

/-- A guarded meaning with one next state answers that state, and only where it is selected. -/
theorem onlyWhen_next_eq_next {c : Prop} [Decidable c] {u t : State} :
    onlyWhen c (.next u) = .next t ↔ c ∧ u = t := by
  simp [onlyWhen_eq_next]

theorem execFieldShort_eq_next {st : ParseState} {d : Byte} {s t : State} (h : execFieldShort st d s = .next t) :
    (s.evqV = false ∧ s.st = st ∧ st.isField = true) ∧
      ((s.params.shortReadEvent = true ∧ t = s.raise (shortReadDiag s.st s.len s.cnt)) ∨
        (s.params.shortReadEvent = false ∧ t = s.setSt .seekStart)) := by
  obtain ⟨hsel, h⟩ := onlyWhen_eq_next.mp h
  refine ⟨hsel, ?_⟩
  split at h
  · next hev => exact .inl ⟨hev, (Host.Outcome.next.inj h).symm⟩
  · next hev => exact .inr ⟨Bool.eq_false_of_not_eq_true hev, (Host.Outcome.next.inj h).symm⟩

theorem execPayByte_eq_next {b : Byte} {s t : State} (h : execPayByte b s = .next t) :
    (s.evqV = false ∧ s.st = .readPayload) ∧ s.cnt.toNat < Config.payloadMax ∧
      (((s.setPbuf s.cnt.toNat b).setAcc (s.acc ^^^ b)).setCnt (s.cnt + 1)).setSt
        (if s.cnt + 1 = s.len then .readChecksum else .readPayload) = t := by
  obtain ⟨hsel, h⟩ := onlyWhen_eq_next.mp h
  refine ⟨hsel, ?_⟩
  split at h
  · next hcnt => exact ⟨hcnt, Host.Outcome.next.inj h⟩
  · cases h

theorem raiseReading_raises {kind : DecodeKind} {s t : State} (h : raiseReading kind s = .next t) :
    ∃ e, t = s.raise e := by
  obtain ⟨p, v, -, -, ht⟩ := raiseReading_eq_next.mp h
  exact ⟨_, ht⟩

theorem execDispMalformed_raises {s t : State} (h : execDispMalformed s = .next t) : ∃ e, t = s.raise e := by
  obtain ⟨-, h⟩ := onlyWhen_eq_next.mp h
  split at h
  · exact ⟨_, (Host.Outcome.next.inj h).symm⟩
  · cases h

theorem execChkMatch_raises {c : Byte} {s t : State} (h : execChkMatch c s = .next t) : ∃ e, t = s.raise e := by
  obtain ⟨-, -, -, ⟨-, ht⟩ | ⟨d, -, ⟨-, ht⟩ | ⟨-, p, v, -, -, ht⟩⟩⟩ := execChkMatch_eq_next h <;> exact ⟨_, ht⟩

theorem execChkByte_raises {c : Byte} {s t : State} (h : execChkByte c s = .next t) : ∃ e, t = s.raise e := by
  obtain ⟨-, -, ⟨-, ht⟩ | ⟨-, h⟩⟩ := execChkByte_eq_next h
  · exact ⟨_, ht⟩
  · exact execChkMatch_raises h

/-! ### The effect of every operation -/

theorem ControlUpdate.of_eq {s t : State} (h : s = t) : ControlUpdate s t := h ▸ .unchanged

theorem ControlUpdate.of_raise {s t : State} (h : ∃ e, t = s.raise e) : ControlUpdate s t := by
  obtain ⟨e, rfl⟩ := h
  exact .raised e

/-- Every operation that answers a next state has one of the effects of `ExecEffect`. -/
theorem exec_effect {i : Instr} {s t : State} (h : exec i s = .next t) : ExecEffect s i t := by
  cases i with
  | rsvState => cases h
  | stall | stoppedHold | idle | seekShort | seekDiscard =>
    obtain ⟨-, ht⟩ := onlyWhen_next_eq_next.mp h
    exact .control (.of_eq ht)
  | streamErr | chkMismatch | dispUnknown =>
    obtain ⟨-, ht⟩ := onlyWhen_next_eq_next.mp h
    exact .control (.of_raise ⟨_, ht.symm⟩)
  | dispTemperature | dispHumidity | dispExt =>
    obtain ⟨-, h⟩ := onlyWhen_eq_next.mp h
    exact .control (.of_raise (raiseReading_raises h))
  | dispMalformed => exact .control (.of_raise (execDispMalformed_raises h))
  | chkByte => exact .control (.of_raise (execChkByte_raises h))
  | chkMatch => exact .control (.of_raise (execChkMatch_raises h))
  | fieldShort st d =>
    obtain ⟨-, ⟨-, rfl⟩ | ⟨-, rfl⟩⟩ := execFieldShort_eq_next (d := d) h
    · exact .control (.raised _)
    · exact .control .abandoned
  | evDrain =>
    obtain ⟨-, rfl⟩ := onlyWhen_next_eq_next.mp h
    exact .control .drained
  | seekMarker =>
    obtain ⟨⟨hv, hst⟩, rfl⟩ := onlyWhen_next_eq_next.mp h
    exact .seekMarker hv hst
  | hdrType =>
    obtain ⟨⟨hv, hst⟩, rfl⟩ := onlyWhen_next_eq_next.mp h
    exact .hdrType hv hst
  | hdrLen =>
    obtain ⟨⟨hv, hst⟩, rfl⟩ := onlyWhen_next_eq_next.mp h
    exact .hdrLen hv hst
  | payByte =>
    obtain ⟨⟨hv, hst⟩, hcnt, rfl⟩ := execPayByte_eq_next h
    exact .payByte hv hst hcnt
  | reset =>
    cases h
    exact .reset

end Sys2Proof.Machine

/-! Which operations write the datapath (10_state.md R18). -/

namespace Sys2Proof.Machine

/-- The frame of an update of `ST` and `EVQ`: `TYPE`, `LEN`, `CNT`, `ACC` and `PBUF` keep their values. -/
theorem ControlUpdate.datapath_eq {s t : State} (h : ControlUpdate s t) :
    t.type = s.type ∧ t.len = s.len ∧ t.cnt = s.cnt ∧ t.acc = s.acc ∧ t.pbuf = s.pbuf := by
  cases h <;> simp

/-- No operation writes the parameters or the model's own fields (10_state.md R28; log entries 1 to 3). -/
theorem exec_params_inputs_tick {i : Instr} {s t : State} (h : exec i s = .next t) :
    t.params = s.params ∧ t.inputs = s.inputs ∧ t.tick = s.tick := by
  cases exec_effect h with
  | control hc => cases hc <;> simp
  | seekMarker | hdrType | hdrLen | payByte | reset => simp

/-- Settles O44: by the effects an operation can have, an update of `ST` and `EVQ` or one of the five writers. -/
theorem writersOfTheDatapath : Obligations.WritersOfTheDatapath := by
  intro i s t h
  cases exec_effect h with
  | control hc =>
    obtain ⟨htype, hlen, hcnt, hacc, hpbuf⟩ := hc.datapath_eq
    simp [htype, hlen, hcnt, hacc, hpbuf, exec_params_inputs_tick h]
  | seekMarker | hdrType | hdrLen | payByte | reset => simp

end Sys2Proof.Machine

/-! The reserved state codes (30_encoding.md R79). -/

namespace Sys2Proof.Machine

/-- RSV.STATE has no next state, whatever its operands and the state (30_encoding.md R79; log entry 6). -/
theorem exec_rsvState (st : ParseState) (k : SymKind) (d : Byte) (s : State) :
    exec (.rsvState st k d) s = .fault .reservedState := rfl

/-- With no event pending, a reserved state selects RSV.STATE for every symbol (30_encoding.md R76, row 2). -/
theorem decodeFields_reserved (marker : Byte) {st : ParseState} (h : st = .reserved6 ∨ st = .reserved7)
    (k : SymKind) (d : Byte) : decodeFields marker false st k d = .rsvState st k d := by
  obtain rfl | rfl := h <;> rfl

/-- Settles O33: the step is the operation its fields select, which in a reserved state is RSV.STATE. -/
theorem reservedStateIsAFault : Obligations.ReservedStateIsAFault := by
  refine ⟨exec_rsvState, fun s hl hv hst hr => ?_⟩
  rw [step_of_ready hl hr hv, decodeFields_reserved _ hst, exec_rsvState]

end Sys2Proof.Machine

/-! The three rows of SEEK_START (40_seek_start.md R81 to R83): the operation each symbol selects, and the one next
state of a selected operation. -/

namespace Sys2Proof.Machine

/-! ### Which row a symbol selects -/

/-- Row 8 (30_encoding.md R76). -/
theorem decodeFields_seekStart_marker (marker : Byte) :
    decodeFields marker false .seekStart .byte marker = .seekMarker :=
  if_pos rfl

/-- Row 9 (30_encoding.md R76): every byte that row 8 does not take. -/
theorem decodeFields_seekStart_discard {marker b : Byte} (h : b ≠ marker) :
    decodeFields marker false .seekStart .byte b = .seekDiscard b :=
  if_neg h

/-- Row 6 (30_encoding.md R76): the data bits are not looked at. -/
theorem decodeFields_seekStart_short (marker d : Byte) :
    decodeFields marker false .seekStart .short d = .seekShort d := rfl

/-! ### What a selected row does -/

theorem exec_seekMarker {s : State} (hv : s.evqV = false) (hst : s.st = .seekStart) :
    exec .seekMarker s = .next ((s.setSt .readHeaderType).setAcc s.params.marker) :=
  onlyWhen_pos ⟨hv, hst⟩ _

theorem exec_seekDiscard {s : State} {b : Byte} (hv : s.evqV = false) (hst : s.st = .seekStart)
    (hb : b ≠ s.params.marker) : exec (.seekDiscard b) s = .next s :=
  onlyWhen_pos ⟨hv, hst, hb⟩ _

theorem exec_seekShort {s : State} (d : Byte) (hv : s.evqV = false) (hst : s.st = .seekStart) :
    exec (.seekShort d) s = .next s :=
  onlyWhen_pos ⟨hv, hst⟩ _

/-! ### The statements of 40_seek_start.md -/

/-- Settles O8: row 8 takes the marker, and its meaning sets `ST` and `ACC` alone. -/
theorem seekMarkerStartsAFrame : Obligations.SeekMarkerStartsAFrame := by
  refine ⟨fun marker => ?_, fun s hv hst => exec_seekMarker hv hst⟩
  rw [decode_mkDecodeWord, decodeFields_seekStart_marker]

/-- Settles O9: row 9 takes every other byte, and its meaning keeps the state. -/
theorem seekDiscardChangesNothing : Obligations.SeekDiscardChangesNothing := by
  refine ⟨fun marker b hb => ?_, fun s b hv hst hb => exec_seekDiscard hv hst hb⟩
  rw [decode_mkDecodeWord, decodeFields_seekStart_discard hb]

/-- Settles O10: row 6 takes an empty read whatever its data bits, and its meaning keeps the state. -/
theorem seekShortChangesNothing : Obligations.SeekShortChangesNothing := by
  refine ⟨fun marker d => ?_, fun s d hv hst => exec_seekShort d hv hst⟩
  rw [decode_mkDecodeWord, decodeFields_seekStart_short]

end Sys2Proof.Machine

/-! The rows of READ_HEADER and READ_PAYLOAD that consume a byte (41_header_payload.md R86 to R88): the operation a
byte selects, and the one next state of a selected operation. -/

namespace Sys2Proof.Machine

/-! ### Which row a byte selects -/

/-- Row 10 (30_encoding.md R76): every byte, the marker too (41_header_payload.md R86). -/
theorem decodeFields_readHeaderType_byte (marker b : Byte) :
    decodeFields marker false .readHeaderType .byte b = .hdrType b := rfl

/-- Row 11 (30_encoding.md R76). -/
theorem decodeFields_readHeaderLen_byte (marker b : Byte) :
    decodeFields marker false .readHeaderLen .byte b = .hdrLen b := rfl

/-- Row 12 (30_encoding.md R76). -/
theorem decodeFields_readPayload_byte (marker b : Byte) :
    decodeFields marker false .readPayload .byte b = .payByte b := rfl

/-! ### What a selected row does -/

theorem exec_hdrType {s : State} (b : Byte) (hv : s.evqV = false) (hst : s.st = .readHeaderType) :
    exec (.hdrType b) s = .next (((s.setType b).setAcc (s.acc ^^^ b)).setSt .readHeaderLen) :=
  onlyWhen_pos ⟨hv, hst⟩ _

theorem exec_hdrLen {s : State} (b : Byte) (hv : s.evqV = false) (hst : s.st = .readHeaderLen) :
    exec (.hdrLen b) s =
      .next ((((s.setLen b).setCnt 0x00).setAcc (s.acc ^^^ b)).setSt
        (if b = 0x00 then .readChecksum else .readPayload)) :=
  onlyWhen_pos ⟨hv, hst⟩ _

/-- Below entry 255 PAY.BYTE does not stop (20_memory.md R47; log entry 5). -/
theorem exec_payByte {s : State} (b : Byte) (hv : s.evqV = false) (hst : s.st = .readPayload)
    (hcnt : s.cnt.toNat < Config.payloadMax) :
    exec (.payByte b) s =
      .next ((((s.setPbuf s.cnt.toNat b).setAcc (s.acc ^^^ b)).setCnt (s.cnt + 1)).setSt
        (if s.cnt + 1 = s.len then .readChecksum else .readPayload)) :=
  (onlyWhen_pos ⟨hv, hst⟩ _).trans (if_pos hcnt)

/-! ### The statements of 41_header_payload.md -/

/-- Settles O11: row 10 takes every byte, and its meaning sets `TYPE`, `ACC` and `ST` alone. -/
theorem hdrTypeStoresTheType : Obligations.HdrTypeStoresTheType := by
  refine ⟨fun marker b => ?_, fun s b hv hst => exec_hdrType b hv hst⟩
  rw [decode_mkDecodeWord, decodeFields_readHeaderType_byte]

/-- Settles O12: row 11 takes every byte, and the one next state of its meaning is read at `b = 0` and at `b ≠ 0`. -/
theorem hdrLenStoresTheLength : Obligations.HdrLenStoresTheLength := by
  refine ⟨fun marker b => ?_, fun s b hv hst => ⟨fun hb => ?_, fun hb => ?_⟩⟩
  · rw [decode_mkDecodeWord, decodeFields_readHeaderLen_byte]
  · subst hb
    rw [exec_hdrLen _ hv hst, if_pos rfl]
    rfl
  · rw [exec_hdrLen b hv hst, if_neg hb]
    rfl

/-- Settles O13: row 12 takes every byte; the store is the write of one entry of `PBUF`, and the rest of the next state
is read off the updates. -/
theorem payByteStoresTheByte : Obligations.PayByteStoresTheByte := by
  refine ⟨fun marker b => ?_, fun s b hv hst hcnt => ⟨_, exec_payByte b hv hst hcnt, ?_, fun j hj => ?_, ?_⟩⟩
  · rw [decode_mkDecodeWord, decodeFields_readPayload_byte]
  · exact Memory.read_write_same s.pbuf s.cnt.toNat b
  · exact Memory.read_write_other s.pbuf b hj
  · exact ⟨rfl, rfl, fun hlast => if_pos hlast, fun hmore => if_neg hmore, rfl, rfl, rfl, rfl, rfl, rfl, rfl⟩

end Sys2Proof.Machine

/-! What DISPATCH returns (43_dispatch.md R97 to R101) and which row of 30_encoding.md R77 a frame selects, case by
case on the descriptor of its type. -/

namespace Sys2Proof.Machine

/-! ### DISPATCH as a function -/

theorem dispatch_of_find_none {ps : Params} {t : Byte} (n : Byte) (p : List Byte) (h : ps.registry.find t = none) :
    dispatch ps t n p = some (unknownTypeEvent t) := by
  simp [dispatch, h]

theorem dispatch_of_ne_width {ps : Params} {t n : Byte} {d : Descriptor} (p : List Byte)
    (hd : ps.registry.find t = some d) (hw : n ≠ d.width) :
    dispatch ps t n p = some (malformedEvent t d.width n) := by
  simp [dispatch, hd, hw]

/-- A frame of the width its type has is a reading as far as DECODE is defined on it (43_dispatch.md R101). -/
theorem dispatch_of_eq_width {ps : Params} {t n : Byte} {d : Descriptor} (p : List Byte)
    (hd : ps.registry.find t = some d) (hw : n = d.width) :
    dispatch ps t n p = (decodeValue d.kind t p).map fun v => readingEvent t n v p := by
  cases hv : decodeValue d.kind t p <;> simp [dispatch, hd, hw, hv]

/-- DISPATCH returns one of three records, and each says what the registry holds for the type. -/
theorem dispatch_eq_some {ps : Params} {t n : Byte} {p : List Byte} {e : Event} (h : dispatch ps t n p = some e) :
    (ps.registry.find t = none ∧ e = unknownTypeEvent t) ∨
      ∃ d, ps.registry.find t = some d ∧
        ((n ≠ d.width ∧ e = malformedEvent t d.width n) ∨
          (n = d.width ∧ ∃ v, decodeValue d.kind t p = some v ∧ e = readingEvent t n v p)) := by
  cases hd : ps.registry.find t with
  | none =>
    rw [dispatch_of_find_none n p hd] at h
    exact .inl ⟨rfl, (Option.some.inj h).symm⟩
  | some d =>
    refine .inr ⟨d, rfl, ?_⟩
    by_cases hw : n = d.width
    · rw [dispatch_of_eq_width p hd hw] at h
      obtain ⟨v, hv, he⟩ := Option.map_eq_some_iff.mp h
      exact .inr ⟨hw, v, hv, he.symm⟩
    · rw [dispatch_of_ne_width p hd hw] at h
      exact .inl ⟨hw, (Option.some.inj h).symm⟩

/-- The kinds of the records that DISPATCH returns (42_checksum.md R94). -/
theorem dispatch_kind {ps : Params} {t n : Byte} {p : List Byte} {e : Event} (h : dispatch ps t n p = some e) :
    e.kind = .validReading ∨ e.kind = .unknownSensorType ∨ e.kind = .malformedPayload := by
  obtain ⟨-, rfl⟩ | ⟨d, -, ⟨-, rfl⟩ | ⟨-, v, -, rfl⟩⟩ := dispatch_eq_some h
  · exact .inr (.inl rfl)
  · exact .inr (.inr rfl)
  · exact .inl rfl

/-- With a legal registry DISPATCH is defined on every payload of length `LEN` (43_dispatch.md R97). -/
theorem dispatch_isSome {ps : Params} (hl : ps.legal = true) (t : Byte) {n : Byte} {p : List Byte}
    (hp : p.length = n.toNat) : ∃ e, dispatch ps t n p = some e := by
  cases hd : ps.registry.find t with
  | none => exact ⟨_, dispatch_of_find_none n p hd⟩
  | some d =>
    by_cases hw : n = d.width
    · have hdl : d.legal = true := (Params.legal_iff.mp hl).2 (t, d) (Registry.mem_of_find hd)
      obtain ⟨v, hv⟩ := decodeValue_isSome hdl t (hw ▸ hp)
      exact ⟨readingEvent t n v p, by rw [dispatch_of_eq_width p hd hw, hv, Option.map_some]⟩
    · exact ⟨_, dispatch_of_ne_width p hd hw⟩

/-! ### The row a frame selects -/

theorem dispatchRow_of_find_none {ps : Params} {t : Byte} (n : Byte) (h : ps.registry.find t = none) :
    dispatchRow ps t n = some .unknown := by
  simp [dispatchRow, h]

theorem dispatchRow_of_ne_width {ps : Params} {t n : Byte} {d : Descriptor} (hd : ps.registry.find t = some d)
    (hw : n ≠ d.width) : dispatchRow ps t n = some .malformed := by
  simp [dispatchRow, hd, hw]

/-- The row of 30_encoding.md R77 for a reading of a kind. -/
def readingRow : DecodeKind → DispatchRow
  | .f32le => .temperature
  | .u16le => .humidity
  | .ext => .ext

/-- A frame of the width its type has selects its kind's row; rows 3 and 4 name their lengths too. -/
theorem dispatchRow_of_eq_width {ps : Params} {t n : Byte} {d : Descriptor} (hd : ps.registry.find t = some d)
    (hw : n = d.width) (h4 : d.kind = .f32le → n = 4) (h2 : d.kind = .u16le → n = 2) :
    dispatchRow ps t n = some (readingRow d.kind) := by
  cases hk : d.kind with
  | f32le => simp [dispatchRow, hd, ← hw, hk, h4 hk, readingRow]
  | u16le => simp [dispatchRow, hd, ← hw, hk, h2 hk, readingRow]
  | ext => simp [dispatchRow, hd, ← hw, hk, readingRow]

/-- DECODE of kind `F32LE` is defined on four bytes alone (43_dispatch.md R102). -/
theorem length_of_decodeValue_f32le {t : Byte} {p : List Byte} {v : Word32} (h : decodeValue .f32le t p = some v) :
    p.length = 4 := by
  match p, h with
  | [_, _, _, _], _ => rfl

/-- DECODE of kind `U16LE` is defined on two bytes alone (43_dispatch.md R103). -/
theorem length_of_decodeValue_u16le {t : Byte} {p : List Byte} {v : Word32} (h : decodeValue .u16le t p = some v) :
    p.length = 2 := by
  match p, h with
  | [_, _], _ => rfl

/-- DECODE is defined only where the kind's row is selected, whether or not the registry is legal. -/
theorem dispatchRow_of_decodeValue {ps : Params} {t n : Byte} {d : Descriptor} {p : List Byte} {v : Word32}
    (hd : ps.registry.find t = some d) (hw : n = d.width) (hp : p.length = n.toNat)
    (hv : decodeValue d.kind t p = some v) : dispatchRow ps t n = some (readingRow d.kind) := by
  refine dispatchRow_of_eq_width hd hw (fun hk => ?_) (fun hk => ?_) <;> rw [hk] at hv
  · exact BitVec.eq_of_toNat_eq (hp.symm.trans (length_of_decodeValue_f32le hv))
  · exact BitVec.eq_of_toNat_eq (hp.symm.trans (length_of_decodeValue_u16le hv))

/-! ### What a selected row does -/

/-- The operation of a row of 30_encoding.md R77. -/
def DispatchRow.op : DispatchRow → Instr
  | .unknown => .dispUnknown
  | .malformed => .dispMalformed
  | .temperature => .dispTemperature
  | .humidity => .dispHumidity
  | .ext => .dispExt

theorem exec_dispUnknown {s : State} (h : s.dispatches .unknown) :
    exec .dispUnknown s = .next (s.raise (unknownTypeEvent s.type)) :=
  onlyWhen_pos h _

theorem exec_dispMalformed {s : State} {d : Descriptor} (h : s.dispatches .malformed)
    (hd : s.params.registry.find s.type = some d) :
    exec .dispMalformed s = .next (s.raise (malformedEvent s.type d.width s.len)) :=
  (onlyWhen_pos h _).trans (by rw [hd])

/-- The row of a kind raises the reading that DECODE of that kind gives. -/
theorem exec_readingRow {s : State} {k : DecodeKind} (h : s.dispatches (readingRow k)) :
    exec (readingRow k).op s = raiseReading k s := by
  cases k with
  | f32le | u16le | ext => exact onlyWhen_pos h _

end Sys2Proof.Machine

/-! READ_CHECKSUM and the validator (42_checksum.md R93 to R95): the row a checksum byte selects, the branch that the
comparison with `ACC` takes, and the one event that each branch raises. -/

namespace Sys2Proof.Machine

theorem State.checksumMatches_iff {s : State} {c : Byte} : s.checksumMatches c = true ↔ c = s.acc := beq_iff_eq

theorem State.checksumMatches_eq_false_iff {s : State} {c : Byte} : s.checksumMatches c = false ↔ c ≠ s.acc :=
  beq_eq_false_iff_ne

/-- Row 13 (30_encoding.md R76): every byte, the marker too (42_checksum.md R93). -/
theorem decodeFields_readChecksum_byte (marker c : Byte) :
    decodeFields marker false .readChecksum .byte c = .chkByte c := rfl

/-! ### The branches of CHK.BYTE -/

theorem exec_chkByte_of_eq {s : State} {c : Byte} (hv : s.evqV = false) (hst : s.st = .readChecksum)
    (hc : c = s.acc) : exec (.chkByte c) s = exec (.chkMatch c) s :=
  (onlyWhen_pos ⟨hv, hst⟩ _).trans (if_pos (State.checksumMatches_iff.mpr hc))

theorem exec_chkByte_of_ne {s : State} {c : Byte} (hv : s.evqV = false) (hst : s.st = .readChecksum)
    (hc : c ≠ s.acc) : exec (.chkByte c) s = exec (.chkMismatch c) s :=
  (onlyWhen_pos ⟨hv, hst⟩ _).trans (if_neg (mt State.checksumMatches_iff.mp hc))

/-! ### CHK.MISMATCH and CHK.MATCH -/

theorem exec_chkMismatch {s : State} {c : Byte} (hv : s.evqV = false) (hst : s.st = .readChecksum)
    (hc : c ≠ s.acc) : exec (.chkMismatch c) s = .next (s.raise (mismatchEvent c s.acc)) :=
  onlyWhen_pos ⟨hv, hst, State.checksumMatches_eq_false_iff.mpr hc⟩ _

/-- CHK.MATCH is the operation of the row that the frame selects (42_checksum.md R94). -/
theorem exec_chkMatch_of_row {s : State} {c : Byte} {r : DispatchRow} (h : s.dispatches r) (hc : c = s.acc) :
    exec (.chkMatch c) s = exec r.op s := by
  obtain ⟨hv, hst, hr⟩ := h
  have hmatch := execChkMatch_eq hv hst (State.checksumMatches_iff.mpr hc)
  rw [hr] at hmatch
  cases r with
  | unknown | malformed | temperature | humidity | ext => exact hmatch

/-- CHK.MATCH raises the record that DISPATCH returns for a written payload (42_checksum.md R94). -/
theorem exec_chkMatch_of_dispatch {s : State} {c : Byte} {p : List Byte} {e : Event} (hv : s.evqV = false)
    (hst : s.st = .readChecksum) (hc : c = s.acc) (hp : s.payload = some p)
    (he : dispatch s.params s.type s.len p = some e) : exec (.chkMatch c) s = .next (s.raise e) := by
  obtain ⟨hd, rfl⟩ | ⟨d, hd, ⟨hw, rfl⟩ | ⟨hw, v, hdec, rfl⟩⟩ := dispatch_eq_some he
  · have hsel : s.dispatches .unknown := ⟨hv, hst, dispatchRow_of_find_none s.len hd⟩
    exact (exec_chkMatch_of_row hsel hc).trans (exec_dispUnknown hsel)
  · have hsel : s.dispatches .malformed := ⟨hv, hst, dispatchRow_of_ne_width hd hw⟩
    exact (exec_chkMatch_of_row hsel hc).trans (exec_dispMalformed hsel hd)
  · have hsel : s.dispatches (readingRow d.kind) :=
      ⟨hv, hst, dispatchRow_of_decodeValue hd hw (Memory.readRange_length hp) hdec⟩
    calc exec (.chkMatch c) s
      _ = exec (readingRow d.kind).op s := exec_chkMatch_of_row hsel hc
      _ = raiseReading d.kind s := exec_readingRow hsel
      _ = .next (s.raise (readingEvent s.type s.len v p)) := raiseReading_eq_next.mpr ⟨p, v, hp, hdec, rfl⟩

/-! ### Where the block is after the event -/

/-- An event after which the session goes on returns the block to SEEK_START (60_exceptions.md R116). -/
theorem State.raise_of_ne_streamError (s : State) {e : Event} (h : e.kind ≠ .streamError) :
    s.raise e = { s with st := .seekStart, evq := e, evqV := true } := by
  have hst : stateAfter e.kind = .seekStart := by
    cases hk : e.kind with
    | streamError => exact absurd hk h
    | validReading | checksumMismatch | unknownSensorType | malformedPayload | shortRead | reserved6 | reserved7 => rfl
  rw [State.raise, hst]
  rfl

theorem dispatch_kind_ne_streamError {ps : Params} {t n : Byte} {p : List Byte} {e : Event}
    (h : dispatch ps t n p = some e) : e.kind ≠ .streamError := by
  obtain hk | hk | hk := dispatch_kind h <;> simp [hk]

/-! ### The statements of 42_checksum.md -/

/-- Settles O17: CHK.MATCH raises the record of DISPATCH, whose kind is one of three. -/
theorem chkMatchEmitsTheDispatch : Obligations.ChkMatchEmitsTheDispatch := by
  intro s c p e hv hst hc hp he
  rw [exec_chkMatch_of_dispatch hv hst hc hp he, s.raise_of_ne_streamError (dispatch_kind_ne_streamError he)]
  exact ⟨rfl, dispatch_kind he⟩

/-- Settles O19: CHK.MISMATCH raises the mismatch record, after which the block seeks the next frame. -/
theorem chkMismatchReportsBoth : Obligations.ChkMismatchReportsBoth := by
  intro s c hv hst hc
  rw [exec_chkMismatch hv hst hc, s.raise_of_ne_streamError (by simp [mismatchEvent])]
  rfl

/-- Settles O16: row 13 takes every byte; where the byte is `ACC`, DISPATCH is defined for a legal registry and
CHK.MATCH raises its record, and where it is not, CHK.MISMATCH raises the mismatch. -/
theorem chkByteRaisesOneEvent : Obligations.ChkByteRaisesOneEvent := by
  refine ⟨fun marker c => ?_, fun s c p hl hv hst hp => ?_⟩
  · rw [decode_mkDecodeWord, decodeFields_readChecksum_byte]
  · by_cases hc : c = s.acc
    · obtain ⟨e, he⟩ := dispatch_isSome hl s.type (Memory.readRange_length hp)
      obtain ⟨hnext, -⟩ := chkMatchEmitsTheDispatch s c p e hv hst hc hp he
      exact ⟨e, (exec_chkByte_of_eq hv hst hc).trans hnext, fun hne => absurd hc hne, fun _ => he⟩
    · have hnext := chkMismatchReportsBoth s c hv hst hc
      exact ⟨_, (exec_chkByte_of_ne hv hst hc).trans hnext, fun _ => rfl, fun heq => absurd heq hc⟩

end Sys2Proof.Machine

/-! The built-in registry (43_dispatch.md R98): a lookup, entry by entry, and this hardware's two entries. -/

namespace Sys2Proof

@[simp] theorem Registry.find_nil (t : Byte) : Registry.find t [] = none := rfl

@[simp] theorem Registry.find_cons_self (t : Byte) (d : Descriptor) (r : Registry) :
    Registry.find t ((t, d) :: r) = some d := if_pos rfl

theorem Registry.find_cons_of_ne {t u : Byte} (d : Descriptor) (r : Registry) (h : t ≠ u) :
    Registry.find t ((u, d) :: r) = Registry.find t r := if_neg h.symm

/-! ### This hardware's registry -/

/-- This hardware's parameters meet 10_state.md R29: two different type ids, each of the width of its kind. -/
theorem Params.legal_thisHardware : Params.thisHardware.legal = true := by
  have hkeys : (Config.builtinRegistry.map Prod.fst).Nodup := by decide
  have hwidths : ∀ e ∈ Config.builtinRegistry, e.2.legal = true := by decide
  exact Params.legal_iff.mpr ⟨hkeys, hwidths⟩

theorem Config.find_builtinRegistry_temperature :
    Config.builtinRegistry.find 0x01 = some Config.temperature := Registry.find_cons_self ..

theorem Config.find_builtinRegistry_humidity : Config.builtinRegistry.find 0x02 = some Config.humidity :=
  (Registry.find_cons_of_ne _ _ (by decide)).trans (Registry.find_cons_self ..)

theorem Config.find_builtinRegistry_of_ne {t : Byte} (h1 : t ≠ 0x01) (h2 : t ≠ 0x02) :
    Config.builtinRegistry.find t = none :=
  calc Config.builtinRegistry.find t
    _ = Registry.find t [(0x02, Config.humidity)] := Registry.find_cons_of_ne _ _ h1
    _ = Registry.find t [] := Registry.find_cons_of_ne _ _ h2
    _ = none := Registry.find_nil t

/-- Settles O36: the registry is legal, and a lookup finds its two entries and no other. -/
theorem builtinRegistry : Obligations.BuiltinRegistry :=
  ⟨Params.legal_thisHardware, Config.find_builtinRegistry_temperature, Config.find_builtinRegistry_humidity,
    fun _ => Config.find_builtinRegistry_of_ne⟩

end Sys2Proof

/-! The rows of stream control (44_stream_control.md R107 to R113): the operation a symbol selects, and the one next
state of a selected operation. -/

namespace Sys2Proof.Machine

/-! ### STALL and STOPPED.HOLD: nothing is consumed -/

/-- A pending event closes the input port (10_state.md R33). -/
theorem State.inReady_of_pending {s : State} (hv : s.evqV = true) : s.inReady = false :=
  Bool.eq_false_iff.mpr fun h => by
    obtain ⟨hv', -, -⟩ := s.inReady_iff.mp h
    simp [hv] at hv'

/-- The input port of an ended session is closed (10_state.md R33). -/
theorem State.inReady_of_stopped {s : State} (hst : s.st = .stopped) : s.inReady = false :=
  Bool.eq_false_iff.mpr fun h => by
    obtain ⟨-, hne, -⟩ := s.inReady_iff.mp h
    exact hne hst

theorem exec_stall {s : State} (k : SymKind) (d : Byte) (hv : s.evqV = true) :
    exec (.stall s.st k d) s = .next s :=
  onlyWhen_pos ⟨hv, rfl⟩ _

/-- Row 3 (30_encoding.md R76): every symbol. -/
theorem decodeFields_stopped (marker : Byte) (k : SymKind) (d : Byte) :
    decodeFields marker false .stopped k d = .stoppedHold k d := rfl

theorem exec_stoppedHold {s : State} (k : SymKind) (d : Byte) (hv : s.evqV = false) (hst : s.st = .stopped) :
    exec (.stoppedHold k d) s = .next s :=
  onlyWhen_pos ⟨hv, hst⟩ _

/-- Settles O27: row 1 takes every symbol in every state, and the pending event closes the input port. -/
theorem stallChangesNothing : Obligations.StallChangesNothing := by
  refine ⟨fun marker st k d => ?_, fun s k d hv => ⟨exec_stall k d hv, s.inReady_of_pending hv⟩⟩
  rw [decode_mkDecodeWord, decodeFields_pending]

/-- Settles O28: row 3 takes every symbol in `STOPPED`, where the input port is closed. -/
theorem stoppedHoldChangesNothing : Obligations.StoppedHoldChangesNothing := by
  refine ⟨fun marker k d => ?_, fun s k d hv hst => ⟨exec_stoppedHold k d hv hst, s.inReady_of_stopped hst⟩⟩
  rw [decode_mkDecodeWord, decodeFields_stopped]

/-! ### IDLE and STREAM.ERR in the live states -/

theorem exec_idle {s : State} (d : Byte) (hv : s.evqV = false) (hlive : s.st.isLive = true) :
    exec (.idle s.st d) s = .next s :=
  onlyWhen_pos ⟨hv, rfl, hlive⟩ _

theorem exec_streamErr {s : State} (d : Byte) (hv : s.evqV = false) (hlive : s.st.isLive = true) :
    exec (.streamErr s.st d) s = .next (s.raise (streamErrorEvent d)) :=
  onlyWhen_pos ⟨hv, rfl, hlive⟩ _

/-- Settles O29: row 4 takes every idle symbol in a live state, and its meaning keeps the state. -/
theorem idleChangesNothing : Obligations.IdleChangesNothing := by
  refine ⟨fun marker st d hcode => ?_, fun s d hv hcode => exec_idle d hv (s.st.isLive_iff.mpr hcode)⟩
  rw [decode_mkDecodeWord, decodeFields_idle marker (st.isLive_iff.mpr hcode)]

/-- Settles O30: row 5 takes every error in a live state, and raising `STREAM_ERROR` sets `EVQ` and `ST` alone. -/
theorem streamErrStopsTheSession : Obligations.StreamErrStopsTheSession := by
  refine ⟨fun marker st d hcode => ?_, fun s d hv hcode => exec_streamErr d hv (s.st.isLive_iff.mpr hcode)⟩
  rw [decode_mkDecodeWord, decodeFields_err marker (st.isLive_iff.mpr hcode)]

/-! ### FIELD.SHORT in the field states -/

/-- Every field state's diagnostic is a `SHORT_READ` (44_stream_control.md R108). -/
theorem shortReadDiag_kind {st : ParseState} (hfield : st.isField = true) (len cnt : Byte) :
    (shortReadDiag st len cnt).kind = .shortRead := by
  cases st with
  | readHeaderType | readHeaderLen | readPayload | readChecksum => rfl
  | seekStart | stopped | reserved6 | reserved7 => cases hfield

theorem exec_fieldShort_silent {s : State} (d : Byte) (hv : s.evqV = false) (hfield : s.st.isField = true)
    (hoff : s.params.shortReadEvent = false) : exec (.fieldShort s.st d) s = .next (s.setSt .seekStart) :=
  (onlyWhen_pos ⟨hv, rfl, hfield⟩ _).trans (if_neg (Bool.eq_false_iff.mp hoff))

theorem exec_fieldShort_diag {s : State} (d : Byte) (hv : s.evqV = false) (hfield : s.st.isField = true)
    (hon : s.params.shortReadEvent = true) :
    exec (.fieldShort s.st d) s = .next (s.raise (shortReadDiag s.st s.len s.cnt)) :=
  (onlyWhen_pos ⟨hv, rfl, hfield⟩ _).trans (if_pos hon)

/-- Settles O31: row 7 takes every short read in a field state; the parameter decides whether the frame is abandoned
silently or with the diagnostic, whose record is read off state by state. -/
theorem fieldShortAbandonsTheFrame : Obligations.FieldShortAbandonsTheFrame := by
  refine ⟨fun marker st d h1 h4 => ?_, fun s d hv h1 h4 => ?_⟩
  · rw [decode_mkDecodeWord, decodeFields_short marker (st.isField_iff.mpr ⟨h1, h4⟩)]
  · have hfield := s.st.isField_iff.mpr ⟨h1, h4⟩
    refine ⟨exec_fieldShort_silent d hv hfield, fun hon => ⟨shortReadDiag s.st s.len s.cnt, ?_, ?_⟩⟩
    · have hkind := shortReadDiag_kind hfield s.len s.cnt
      rw [exec_fieldShort_diag d hv hfield hon, s.raise_of_ne_streamError (by simp [hkind])]
    · have record {st : ParseState} (h : s.st = st) :
          shortReadDiag s.st s.len s.cnt = shortReadDiag st s.len s.cnt := by rw [h]
      exact ⟨record, record, record, record⟩

/-! ### EV.DRAIN -/

theorem exec_evDrain {s : State} (hv : s.evqV = true) : exec .evDrain s = .next s.clearEvent :=
  onlyWhen_pos hv _

/-- A registry that is not legal is refused in every step (10_state.md R29; log entry 7). -/
theorem step_of_not_legal {s : State} (hl : ¬ s.params.legal = true) : step s = .refused .illegalRegistry :=
  if_neg hl

/-- A step with `rst = 1` is the reset, whatever the other inputs (60_exceptions.md R119). -/
theorem step_of_rst {s : State} (hl : s.params.legal = true) (hr : s.nextInput.rst = true) :
    step s = .next s.takeInput.resetState :=
  (if_pos hl).trans (if_pos hr)

/-- With no event pending, `ev_ready` is not read (44_stream_control.md R112): two steps that leave the same rest of
the schedule and see the same `rst` and symbol are both refused, both the reset, or both the operation selected. -/
theorem step_eq_of_same_symbol {s t : State} (htake : s.takeInput = t.takeInput) (hv : s.evqV = false)
    (hrst : s.nextInput.rst = t.nextInput.rst) (hkind : s.nextInput.inKind = t.nextInput.inKind)
    (hdata : s.nextInput.inData = t.nextInput.inData) : step s = step t := by
  have hparams : s.params = t.params := by simpa using congrArg State.params htake
  have hst : s.st = t.st := by simpa using congrArg State.st htake
  have hvt : t.evqV = false := by simpa [hv] using (congrArg State.evqV htake).symm
  by_cases hl : t.params.legal = true
  · have hls : s.params.legal = true := hparams ▸ hl
    cases hr : t.nextInput.rst with
    | true => rw [step_of_rst hls (hrst.trans hr), step_of_rst hl hr, htake]
    | false =>
      rw [step_of_ready hls (hrst.trans hr) hv, step_of_ready hl hr hvt, hparams, hst, hkind, hdata, htake]
  · rw [step_of_not_legal (hparams ▸ hl), step_of_not_legal hl]

/-- Settles O32: EV.DRAIN clears the valid bit alone, and with no event pending a step does not read `ev_ready`. -/
theorem evDrainClearsTheValidBit : Obligations.EvDrainClearsTheValidBit :=
  ⟨fun _ hv => exec_evDrain hv, fun _ _ _ _ hv hrst hkind hdata => step_eq_of_same_symbol rfl hv hrst hkind hdata⟩

end Sys2Proof.Machine

/-! What a step can do, said once for every kind of symbol (44_stream_control.md R114): with a legal registry and no
event pending, the selected operation has one of the outcomes of `SymbolOutcome`, and none of them is a refusal. -/

namespace Sys2Proof.Machine

/-- The outcomes of the operation that the symbol `{k, d}` selects in a state with no event pending, each with its
guard: what 40_seek_start.md to 44_stream_control.md give for the state and the symbol, and the three stops. A matching
checksum byte raises the dispatch of a written payload (`dispatched`); with an unwritten entry it raises the event of a
row that does not read the payload (`unread`), or stops (`unwritten`). -/
inductive SymbolOutcome (s : State) (k : SymKind) (d : Byte) : Result → Prop where
  | held (hst : s.st = .stopped) : SymbolOutcome s k d (.next s)
  | idle (hk : k = .idle) (hlive : s.st.isLive = true) : SymbolOutcome s k d (.next s)
  | streamErr (hk : k = .err) (hlive : s.st.isLive = true) :
      SymbolOutcome s k d (.next (s.raise (streamErrorEvent d)))
  | seekShort (hk : k = .short) (hst : s.st = .seekStart) : SymbolOutcome s k d (.next s)
  | shortSilent (hk : k = .short) (hfield : s.st.isField = true) (hoff : s.params.shortReadEvent = false) :
      SymbolOutcome s k d (.next (s.setSt .seekStart))
  | shortDiag (hk : k = .short) (hfield : s.st.isField = true) (hon : s.params.shortReadEvent = true) :
      SymbolOutcome s k d (.next (s.raise (shortReadDiag s.st s.len s.cnt)))
  | seekMarker (hk : k = .byte) (hst : s.st = .seekStart) (hd : d = s.params.marker) :
      SymbolOutcome s k d (.next ((s.setSt .readHeaderType).setAcc s.params.marker))
  | seekDiscard (hk : k = .byte) (hst : s.st = .seekStart) (hd : d ≠ s.params.marker) : SymbolOutcome s k d (.next s)
  | hdrType (hk : k = .byte) (hst : s.st = .readHeaderType) :
      SymbolOutcome s k d (.next (((s.setType d).setAcc (s.acc ^^^ d)).setSt .readHeaderLen))
  | hdrLen (hk : k = .byte) (hst : s.st = .readHeaderLen) :
      SymbolOutcome s k d (.next ((((s.setLen d).setCnt 0x00).setAcc (s.acc ^^^ d)).setSt
        (if d = 0x00 then .readChecksum else .readPayload)))
  | payByte (hk : k = .byte) (hst : s.st = .readPayload) (hcnt : s.cnt.toNat < Config.payloadMax) :
      SymbolOutcome s k d (.next ((((s.setPbuf s.cnt.toNat d).setAcc (s.acc ^^^ d)).setCnt (s.cnt + 1)).setSt
        (if s.cnt + 1 = s.len then .readChecksum else .readPayload)))
  | mismatch (hk : k = .byte) (hst : s.st = .readChecksum) (hc : d ≠ s.acc) :
      SymbolOutcome s k d (.next (s.raise (mismatchEvent d s.acc)))
  | dispatched {p : List Byte} {e : Event} (hk : k = .byte) (hst : s.st = .readChecksum) (hc : d = s.acc)
      (hp : s.payload = some p) (he : dispatch s.params s.type s.len p = some e) :
      SymbolOutcome s k d (.next (s.raise e))
  | unread {e : Event} (hk : k = .byte) (hst : s.st = .readChecksum) (hc : d = s.acc)
      (hp : s.payload = none) (he : ∀ p, dispatch s.params s.type s.len p = some e) :
      SymbolOutcome s k d (.next (s.raise e))
  | reserved (hst : s.st = .reserved6 ∨ s.st = .reserved7) : SymbolOutcome s k d (.fault .reservedState)
  | noEntry (hk : k = .byte) (hst : s.st = .readPayload) (hcnt : ¬ s.cnt.toNat < Config.payloadMax) :
      SymbolOutcome s k d (.fault .payloadIndex)
  | unwritten (hk : k = .byte) (hst : s.st = .readChecksum) (hp : s.payload = none) :
      SymbolOutcome s k d (.fault .unwrittenPayload)

/-! ### The stops -/

/-- PAY.BYTE past the last entry stops (20_memory.md R47; log entry 5). -/
theorem exec_payByte_of_no_entry {s : State} (b : Byte) (hv : s.evqV = false) (hst : s.st = .readPayload)
    (hcnt : ¬ s.cnt.toNat < Config.payloadMax) : exec (.payByte b) s = .fault .payloadIndex :=
  (onlyWhen_pos ⟨hv, hst⟩ _).trans (if_neg hcnt)

theorem raiseReading_of_unwritten {s : State} (k : DecodeKind) (hp : s.payload = none) :
    raiseReading k s = .fault .unwrittenPayload := by
  simp [raiseReading, hp]

/-- With a legal registry a matching frame of its type's width is a reading of its descriptor's kind. -/
theorem exec_chkMatch_of_eq_width {s : State} {c : Byte} {d : Descriptor} (hl : s.params.legal = true)
    (hv : s.evqV = false) (hst : s.st = .readChecksum) (hc : c = s.acc)
    (hd : s.params.registry.find s.type = some d) (hw : s.len = d.width) :
    exec (.chkMatch c) s = raiseReading d.kind s := by
  obtain ⟨h4, h2⟩ := Params.legal_of_find hl hd
  have hsel : s.dispatches (readingRow d.kind) :=
    ⟨hv, hst, dispatchRow_of_eq_width hd hw (fun hk => hw.trans (h4 hk)) (fun hk => hw.trans (h2 hk))⟩
  exact (exec_chkMatch_of_row hsel hc).trans (exec_readingRow hsel)

/-! ### The checksum byte -/

/-- A matching checksum byte with the payload not all written: the two rows that do not read it raise their event, and
a reading stops (10_state.md R40). -/
theorem symbolOutcome_match_unwritten {s : State} {c : Byte} (hl : s.params.legal = true) (hv : s.evqV = false)
    (hst : s.st = .readChecksum) (hc : c = s.acc) (hp : s.payload = none) :
    SymbolOutcome s .byte c (exec (.chkMatch c) s) := by
  cases hd : s.params.registry.find s.type with
  | none =>
    have hsel : s.dispatches .unknown := ⟨hv, hst, dispatchRow_of_find_none s.len hd⟩
    rw [exec_chkMatch_of_row hsel hc, DispatchRow.op, exec_dispUnknown hsel]
    exact .unread rfl hst hc hp fun p => dispatch_of_find_none s.len p hd
  | some d =>
    by_cases hw : s.len = d.width
    · rw [exec_chkMatch_of_eq_width hl hv hst hc hd hw, raiseReading_of_unwritten d.kind hp]
      exact .unwritten rfl hst hp
    · have hsel : s.dispatches .malformed := ⟨hv, hst, dispatchRow_of_ne_width hd hw⟩
      rw [exec_chkMatch_of_row hsel hc, DispatchRow.op, exec_dispMalformed hsel hd]
      exact .unread rfl hst hc hp fun p => dispatch_of_ne_width p hd hw

theorem symbolOutcome_chkByte {s : State} (c : Byte) (hl : s.params.legal = true) (hv : s.evqV = false)
    (hst : s.st = .readChecksum) : SymbolOutcome s .byte c (exec (.chkByte c) s) := by
  by_cases hc : c = s.acc
  · rw [exec_chkByte_of_eq hv hst hc]
    cases hp : s.payload with
    | none => exact symbolOutcome_match_unwritten hl hv hst hc hp
    | some p =>
      obtain ⟨e, he⟩ := dispatch_isSome hl s.type (Memory.readRange_length hp)
      rw [exec_chkMatch_of_dispatch hv hst hc hp he]
      exact .dispatched rfl hst hc hp he
  · rw [exec_chkByte_of_ne hv hst hc, exec_chkMismatch hv hst hc]
    exact .mismatch rfl hst hc

/-! ### Every symbol in every state -/

/-- A byte in a live state: the five rows that consume one, SEEK_START having two (30_encoding.md R76, rows 8 to 13). -/
theorem symbolOutcome_byte {s : State} (b : Byte) (hl : s.params.legal = true) (hv : s.evqV = false)
    (hlive : s.st.isLive = true) :
    SymbolOutcome s .byte b (exec (decodeFields s.params.marker false s.st .byte b) s) := by
  cases hst : s.st with
  | seekStart =>
    by_cases hb : b = s.params.marker
    · rw [hb, decodeFields_seekStart_marker, exec_seekMarker hv hst]
      exact .seekMarker rfl hst rfl
    · rw [decodeFields_seekStart_discard hb, exec_seekDiscard hv hst hb]
      exact .seekDiscard rfl hst hb
  | readHeaderType =>
    rw [decodeFields_readHeaderType_byte, exec_hdrType b hv hst]
    exact .hdrType rfl hst
  | readHeaderLen =>
    rw [decodeFields_readHeaderLen_byte, exec_hdrLen b hv hst]
    exact .hdrLen rfl hst
  | readPayload =>
    rw [decodeFields_readPayload_byte]
    by_cases hcnt : s.cnt.toNat < Config.payloadMax
    · rw [exec_payByte b hv hst hcnt]
      exact .payByte rfl hst hcnt
    · rw [exec_payByte_of_no_entry b hv hst hcnt]
      exact .noEntry rfl hst hcnt
  | readChecksum => exact symbolOutcome_chkByte b hl hv hst
  | stopped | reserved6 | reserved7 => simp [hst, ParseState.isLive] at hlive

theorem symbolOutcome_short {s : State} (d : Byte) (hv : s.evqV = false) (hlive : s.st.isLive = true) :
    SymbolOutcome s .short d (exec (decodeFields s.params.marker false s.st .short d) s) := by
  by_cases hst : s.st = .seekStart
  · rw [hst, decodeFields_seekStart_short, exec_seekShort d hv hst]
    exact .seekShort rfl hst
  · have hfield : s.st.isField = true := by
      cases h : s.st <;> simp [h, ParseState.isLive, ParseState.isField] at hlive hst ⊢
    rw [decodeFields_short s.params.marker hfield]
    cases hev : s.params.shortReadEvent with
    | false =>
      rw [exec_fieldShort_silent d hv hfield hev]
      exact .shortSilent rfl hfield hev
    | true =>
      rw [exec_fieldShort_diag d hv hfield hev]
      exact .shortDiag rfl hfield hev

/-- A state that takes no symbol is `STOPPED` or reserved (10_state.md R33, 30_encoding.md R72). -/
theorem ParseState.stopped_or_reserved_of_not_isLive {st : ParseState} (h : ¬ st.isLive = true) :
    st = .stopped ∨ st = .reserved6 ∨ st = .reserved7 := by
  cases st <;> simp [ParseState.isLive] at h ⊢

/-- With a legal registry and no event pending, the operation a symbol selects has an outcome of `SymbolOutcome`. -/
theorem symbolOutcome {s : State} (k : SymKind) (d : Byte) (hl : s.params.legal = true) (hv : s.evqV = false) :
    SymbolOutcome s k d (exec (decodeFields s.params.marker false s.st k d) s) := by
  by_cases hlive : s.st.isLive = true
  · cases k with
    | idle =>
      rw [decodeFields_idle s.params.marker hlive, exec_idle d hv hlive]
      exact .idle rfl hlive
    | err =>
      rw [decodeFields_err s.params.marker hlive, exec_streamErr d hv hlive]
      exact .streamErr rfl hlive
    | short => exact symbolOutcome_short d hv hlive
    | byte => exact symbolOutcome_byte d hl hv hlive
  · rcases ParseState.stopped_or_reserved_of_not_isLive hlive with hst | hst
    · rw [hst, decodeFields_stopped, exec_stoppedHold k d hv hst]
      exact .held hst
    · rw [decodeFields_reserved s.params.marker hst, exec_rsvState]
      exact .reserved hst

/-! ### Every step -/

/-- What a step that answers a next state has done (44_stream_control.md R114). -/
inductive StepEffect (s : State) : State → Prop where
  | reset (hr : s.nextInput.rst = true) : StepEffect s s.takeInput.resetState
  | drained (hr : s.nextInput.rst = false) (hv : s.evqV = true) (he : s.nextInput.evReady = true) :
      StepEffect s s.takeInput.clearEvent
  | waited (hr : s.nextInput.rst = false) (hv : s.evqV = true) (he : s.nextInput.evReady = false) :
      StepEffect s s.takeInput
  | symbol {u : State} (hr : s.nextInput.rst = false) (hv : s.evqV = false)
      (h : SymbolOutcome s.takeInput s.nextInput.inKind s.nextInput.inData (.next u)) : StepEffect s u

theorem step_effect {s u : State} (h : step s = .next u) : StepEffect s u := by
  obtain ⟨hl, ⟨hr, rfl⟩ | ⟨hr, hv, he, rfl⟩ | ⟨hr, hv, he, rfl⟩ | ⟨hr, hv, hexec⟩⟩ := step_eq_next h
  · exact .reset hr
  · exact .drained hr hv he
  · exact .waited hr hv he
  · exact .symbol hr hv (hexec ▸ symbolOutcome (s := s.takeInput) _ _ hl hv)

/-- With no event pending and no reset, the step has the outcome of its symbol. -/
theorem step_symbolOutcome {s : State} (hl : s.params.legal = true) (hr : s.nextInput.rst = false)
    (hv : s.evqV = false) : SymbolOutcome s.takeInput s.nextInput.inKind s.nextInput.inData (step s) := by
  rw [step_of_ready hl hr hv]
  exact symbolOutcome (s := s.takeInput) _ _ hl hv

end Sys2Proof.Machine

/-! The dispatch rows on a written or unwritten payload (43_dispatch.md R97 to R104), and the stops of the byte
operations. -/

namespace Sys2Proof.Machine

/-! ### DISPATCH -/

/-- Settles O20: DISPATCH is defined with a legal registry, and each of its three records carries the frame's type. -/
theorem dispatchIsTotal : Obligations.DispatchIsTotal := by
  intro ps t n p hl hp
  obtain ⟨e, he⟩ := dispatch_isSome hl t hp
  have htype : e.type = t := by
    obtain ⟨-, rfl⟩ | ⟨d, -, ⟨-, rfl⟩ | ⟨-, v, -, rfl⟩⟩ := dispatch_eq_some he <;> rfl
  exact ⟨e, he, htype, dispatch_kind he⟩

/-! ### The rows that do not read the payload -/

/-- Settles O21: no descriptor selects the row, whose event leaves the block in SEEK_START. -/
theorem dispUnknownReportsTheType : Obligations.DispUnknownReportsTheType := by
  intro s hv hst hd
  rw [exec_dispUnknown ⟨hv, hst, dispatchRow_of_find_none s.len hd⟩]
  rfl

/-- Settles O22: a descriptor of another width selects the row, whose event carries both widths. -/
theorem dispMalformedReportsBothWidths : Obligations.DispMalformedReportsBothWidths := by
  intro s d hv hst hd hw
  rw [exec_dispMalformed ⟨hv, hst, dispatchRow_of_ne_width hd hw⟩ hd]
  rfl

/-! ### The rows of a reading -/

/-- The row of a descriptor's kind raises the reading, DECODE being defined on the written payload. -/
theorem exec_readingRow_eq_raise {s : State} {d : Descriptor} {p : List Byte} {v : Word32} (hv : s.evqV = false)
    (hst : s.st = .readChecksum) (hd : s.params.registry.find s.type = some d) (hw : s.len = d.width)
    (hp : s.payload = some p) (hdec : decodeValue d.kind s.type p = some v) :
    exec (readingRow d.kind).op s = .next (s.raise (readingEvent s.type s.len v p)) := by
  have hsel : s.dispatches (readingRow d.kind) :=
    ⟨hv, hst, dispatchRow_of_decodeValue hd hw (Memory.readRange_length hp) hdec⟩
  exact (exec_readingRow hsel).trans (raiseReading_eq_next.mpr ⟨p, v, hp, hdec, rfl⟩)

/-- Settles O23: the four written bytes are the payload, and DECODE of kind `F32LE` puts the first one lowest. -/
theorem dispTemperatureEmitsThePattern : Obligations.DispTemperatureEmitsThePattern := by
  intro s d p0 p1 p2 p3 hv hst hd hk hw hlen h0 h1 h2 h3
  have hp : s.payload = some [p0, p1, p2, p3] := by
    simp [State.payload, hlen, Memory.readRange_succ, h0, h1, h2, h3]
  have hexec := exec_readingRow_eq_raise (v := le32 p0 p1 p2 p3) hv hst hd (hlen.trans hw.symm) hp (by rw [hk]; rfl)
  rw [hk, hlen] at hexec
  exact hexec

/-- The count of a humidity payload, zero-extended, is the 32-bit word with an upper half of 0 (43_dispatch.md R103). -/
theorem setWidth_le16 (p0 p1 : Byte) : (le16 p0 p1).setWidth 32 = 0#16 ++ (p1 ++ p0) :=
  BitVec.setWidth_eq_append (by decide)

/-- Settles O24: the two written bytes are the payload, and DECODE of kind `U16LE` extends them with zeros. -/
theorem dispHumidityEmitsTheCount : Obligations.DispHumidityEmitsTheCount := by
  intro s d p0 p1 hv hst hd hk hw hlen h0 h1
  have hp : s.payload = some [p0, p1] := by simp [State.payload, hlen, Memory.readRange_succ, h0, h1]
  have hdec : decodeValue d.kind s.type [p0, p1] = some (0#16 ++ (p1 ++ p0)) := by
    rw [hk, ← setWidth_le16]
    rfl
  have hexec := exec_readingRow_eq_raise hv hst hd (hlen.trans hw.symm) hp hdec
  rw [hk, hlen] at hexec
  exact hexec

/-- Settles O25: DECODE of kind `EXT` is EXT_DECODE on every payload. -/
theorem dispExtEmitsExtDecode : Obligations.DispExtEmitsExtDecode := by
  intro s d p hv hst hd hk hw hp
  have hexec := exec_readingRow_eq_raise (v := Config.extDecode s.type p) hv hst hd hw hp (by rw [hk]; rfl)
  rw [hk] at hexec
  exact hexec

/-! ### CHK.BYTE and CHK.MATCH -/

/-- Settles O15: the comparison decides between the two operations. -/
theorem chkByteComparesWithAcc : Obligations.ChkByteComparesWithAcc :=
  fun _ _ hv hst => ⟨exec_chkByte_of_eq hv hst, exec_chkByte_of_ne hv hst⟩

/-- Settles O18: CHK.MATCH is the operation of the selected row, and each clause's premises select one row. -/
theorem chkMatchPerformsTheSelectedRow : Obligations.ChkMatchPerformsTheSelectedRow := by
  intro s c hv hst hc
  have hrow {r : DispatchRow} (h : dispatchRow s.params s.type s.len = some r) :
      exec (.chkMatch c) s = exec r.op s := exec_chkMatch_of_row ⟨hv, hst, h⟩ hc
  refine ⟨fun hd => hrow (dispatchRow_of_find_none s.len hd), fun d hd =>
    ⟨fun hw => hrow (dispatchRow_of_ne_width hd hw), fun hw hk h4 => ?_, fun hw hk h2 => ?_, fun hw hk => ?_⟩⟩
  · have h := hrow (dispatchRow_of_eq_width hd hw (fun _ => h4) (by simp [hk]))
    rwa [hk] at h
  · have h := hrow (dispatchRow_of_eq_width hd hw (by simp [hk]) (fun _ => h2))
    rwa [hk] at h
  · have h := hrow (dispatchRow_of_eq_width hd hw (by simp [hk]) (by simp [hk]))
    rwa [hk] at h

/-! ### The stops -/

/-- Settles O26: one unwritten entry leaves the payload unreadable, and the reading that CHK.MATCH performs stops. -/
theorem unwrittenPayloadIsAFault : Obligations.UnwrittenPayloadIsAFault := by
  intro s c d j hl hv hst hc hd hw hj hread
  have hp : s.payload = none := Memory.readRange_eq_none.mpr ⟨j, hj, by rwa [Nat.zero_add]⟩
  calc exec (.chkByte c) s
    _ = exec (.chkMatch c) s := exec_chkByte_of_eq hv hst hc
    _ = raiseReading d.kind s := exec_chkMatch_of_eq_width hl hv hst hc hd hw
    _ = .fault .unwrittenPayload := raiseReading_of_unwritten d.kind hp

/-- Settles O14: index 255 is past the last entry. -/
theorem payByteHasNoEntry255 : Obligations.PayByteHasNoEntry255 :=
  fun _ b hv hst hcnt => exec_payByte_of_no_entry b hv hst (by simp [hcnt, Config.payloadMax])

end Sys2Proof.Machine

/-! The step as a whole (44_stream_control.md R114): the three forms it takes, what it leaves as it was, and what it
does not look at. -/

namespace Sys2Proof.Machine

/-! ### The forms of a step -/

/-- A step with an event pending waits or drains, whatever the symbol and the state code (44_stream_control.md R111,
R112). -/
theorem step_of_pending {s : State} (hl : s.params.legal = true) (hr : s.nextInput.rst = false)
    (hv : s.evqV = true) :
    step s = if s.nextInput.evReady then .next s.takeInput.clearEvent else .next s.takeInput := by
  have hstall : exec (s.takeInput.selectedOp s.nextInput) s.takeInput = .next s.takeInput := by
    rw [State.selectedOp_eq, State.takeInput_evqV, hv, decodeFields_pending]
    exact exec_stall _ _ hv
  calc step s
    _ = symbolStep s.nextInput s.takeInput := by simp [step, oneStep, hl, hr]
    _ = if s.nextInput.evReady then .next s.takeInput.clearEvent else .next s.takeInput := by
      rw [symbolStep, hstall, andThen_next, exec_evDrain (s := s.takeInput) hv]
      simp [State.drains, hv]

/-- Settles O50: the step with the drain and the one without it differ in the valid bit. -/
theorem pendingEventWaitsForTheSink : Obligations.PendingEventWaitsForTheSink := by
  intro s hl hv hr
  rw [step_of_pending hl hr hv]
  cases s.nextInput.evReady with
  | true => rfl
  | false => simp [State.takeInput, hv]

/-- Settles O6: the reset state, with the input taken. -/
theorem resetStepOverridesTheRest : Obligations.ResetStepOverridesTheRest :=
  fun _ hl hr => step_of_rst hl hr

/-- Settles O7: each way to break 10_state.md R29 contradicts a clause of legality. -/
theorem illegalRegistryIsRefused : Obligations.IllegalRegistryIsRefused := by
  intro s h
  refine step_of_not_legal fun hl => ?_
  obtain ⟨hnodup, hwidths⟩ := Params.legal_iff.mp hl
  obtain hdup | ⟨e, he, hbad⟩ := h
  · exact hdup hnodup
  · obtain ⟨h4, h2⟩ := Descriptor.legal_iff.mp (hwidths e he)
    obtain ⟨hk, hw⟩ | ⟨hk, hw⟩ := hbad
    · exact hw (h4 hk)
    · exact hw (h2 hk)

/-- Settles O5: with an event pending the operation is STALL, which answers the state itself, and the drain follows;
with none pending the step is the operation. -/
theorem stepRunsTheDecodedOperation : Obligations.StepRunsTheDecodedOperation := by
  rintro s inp i hl rfl hr rfl
  rw [decode_mkDecodeWord]
  cases hv : s.evqV with
  | true =>
    have hstall := exec_stall (s := s.takeInput) s.nextInput.inKind s.nextInput.inData hv
    rw [decodeFields_pending, ← State.takeInput_st, hstall, step_of_pending hl hr hv]
    refine ⟨fun t ht => ?_, fun f hf => (nomatch hf), fun r hr => (nomatch hr)⟩
    cases ht
    simp [State.clearEvent]
  | false =>
    rw [step_of_ready hl hr hv]
    simp

/-- Settles O43: an illegal registry has a refusal of its own; with a legal one the reset and the step of a pending
event answer a next state, and no symbol's outcome is a refusal. -/
theorem noStepIsRefused : Obligations.NoStepIsRefused := by
  intro s
  by_cases hl : s.params.legal = true
  · suffices h : ∀ r, step s ≠ .refused r from ⟨h _, fun _ => h⟩
    intro r hstep
    cases hr : s.nextInput.rst with
    | true => simp [step_of_rst hl hr] at hstep
    | false =>
      cases hv : s.evqV with
      | true =>
        rw [step_of_pending hl hr hv] at hstep
        split at hstep <;> cases hstep
      | false =>
        have h := step_symbolOutcome hl hr hv
        rw [hstep] at h
        cases h
  · exact ⟨by simp [step_of_not_legal hl], fun h => absurd h hl⟩

/-! ### What a step leaves as it was -/

/-- Settles O45: no effect of a step writes the parameters. -/
theorem noStepWritesTheParameters : Obligations.NoStepWritesTheParameters := by
  intro s t h
  cases step_effect h with
  | reset | drained | waited => rfl
  | symbol _ _ h => cases h <;> rfl

/-- Settles O46: PAY.BYTE is the one outcome with another buffer, and it is the write of one entry. -/
theorem pbufIsWrittenOnlyByPayloadBytes : Obligations.PbufIsWrittenOnlyByPayloadBytes := by
  intro s t j h hne
  cases step_effect h with
  | reset | drained | waited => exact absurd rfl hne
  | symbol hr hv h =>
    cases h with
    | payByte hk hst =>
      have hj : j = s.cnt.toNat := by
        by_contra hj
        exact hne (Memory.read_write_other s.pbuf s.nextInput.inData hj)
      subst hj
      exact ⟨hr, hk, hv, hst, rfl, Memory.read_write_same s.pbuf _ _⟩
    | _ => exact absurd rfl hne

/-! ### The end of the session -/

/-- With no event pending, `STOPPED` holds against every symbol (44_stream_control.md R113). -/
theorem step_of_stopped {s : State} (hl : s.params.legal = true) (hr : s.nextInput.rst = false)
    (hv : s.evqV = false) (hst : s.st = .stopped) : step s = .next s.takeInput := by
  rw [step_of_ready hl hr hv, hst, decodeFields_stopped]
  exact exec_stoppedHold (s := s.takeInput) _ _ hv hst

/-- Settles O47: without a reset, a step in `STOPPED` drains, waits or holds. -/
theorem onlyResetLeavesStopped : Obligations.OnlyResetLeavesStopped := by
  intro s t hst h hr
  obtain ⟨hl, -⟩ := step_eq_next h
  cases step_effect h with
  | reset hr' => simp [hr] at hr'
  | drained | waited => exact hst
  | symbol _ hv _ =>
    rw [step_of_stopped hl hr hv hst] at h
    cases h
    exact hst

/-! ### Raised events -/

theorem ParseState.isLive_of_isField {st : ParseState} (h : st.isField = true) : st.isLive = true :=
  st.isLive_iff.mpr (st.isField_iff.mp h).2

/-- An outcome keeps the event register, and enters `STOPPED` only from there; or it raises an event in a live state,
on a symbol other than `IDLE`, and a `STREAM_ERROR` only on `ERR`. -/
theorem SymbolOutcome.quiet_or_raised {s u : State} {k : SymKind} {d : Byte} (h : SymbolOutcome s k d (.next u)) :
    (u.evq = s.evq ∧ u.evqV = s.evqV ∧ (u.st = .stopped → s.st = .stopped)) ∨
      ∃ e, u = s.raise e ∧ s.st.isLive = true ∧ k ≠ .idle ∧
        (e.kind = .streamError → k = .err ∧ e = streamErrorEvent d) := by
  cases h with
  | held | idle | seekShort | seekDiscard => exact .inl ⟨rfl, rfl, id⟩
  | shortSilent | seekMarker | hdrType => exact .inl ⟨rfl, rfl, fun hst => nomatch hst⟩
  | hdrLen | payByte =>
    refine .inl ⟨rfl, rfl, fun hst => ?_⟩
    rw [State.setSt_st] at hst
    split at hst <;> cases hst
  | streamErr hk hlive => exact .inr ⟨_, rfl, hlive, by simp [hk], fun _ => ⟨hk, rfl⟩⟩
  | shortDiag hk hfield =>
    have hkind := shortReadDiag_kind hfield s.len s.cnt
    exact .inr ⟨_, rfl, ParseState.isLive_of_isField hfield, by simp [hk], by simp [hkind]⟩
  | mismatch hk hst => exact .inr ⟨_, rfl, by simp [hst, ParseState.isLive], by simp [hk], by simp [mismatchEvent]⟩
  | dispatched hk hst _ _ he =>
    exact .inr ⟨_, rfl, by simp [hst, ParseState.isLive], by simp [hk],
      fun h => absurd h (dispatch_kind_ne_streamError he)⟩
  | unread hk hst _ _ he =>
    exact .inr ⟨_, rfl, by simp [hst, ParseState.isLive], by simp [hk],
      fun h => absurd h (dispatch_kind_ne_streamError (he []))⟩

/-- With no event pending a live state takes its symbol (10_state.md R33). -/
theorem State.inReady_of_live {s : State} (hv : s.evqV = false) (hlive : s.st.isLive = true) : s.inReady = true :=
  s.inReady_iff.mpr ⟨hv, by rintro h; simp [h, ParseState.isLive] at hlive, s.st.isLive_iff.mp hlive⟩

/-- Only `STREAM_ERROR` leaves the block in `STOPPED` (60_exceptions.md R116). -/
theorem stateAfter_eq_stopped_iff {k : EventKind} : stateAfter k = .stopped ↔ k = .streamError := by
  cases k <;> simp [stateAfter]

/-- Settles O48: of the effects of a step only a raised `STREAM_ERROR` enters `STOPPED` from another state. -/
theorem onlyStreamErrorStops : Obligations.OnlyStreamErrorStops := by
  intro s t hne h hst
  cases step_effect h with
  | reset => cases hst
  | drained | waited => exact absurd hst hne
  | symbol hr hv h =>
    obtain ⟨-, -, hst'⟩ | ⟨e, rfl, hlive, -, herr⟩ := h.quiet_or_raised
    · exact absurd (hst' hst) hne
    · obtain ⟨hk, rfl⟩ := herr (stateAfter_eq_stopped_iff.mp hst)
      exact ⟨hr, State.inReady_of_live hv hlive, hk, rfl, rfl⟩

/-- Settles O49: the drain and the wait keep the record and raise nothing; a symbol that raises an event is consumed. -/
theorem eventsAreRaisedOnlyWhenNoneWaits : Obligations.EventsAreRaisedOnlyWhenNoneWaits := by
  intro s t h hr hnew
  have hnone (hevq : t.evq = s.evq) (hevqV : t.evqV = true → s.evqV = true) : False := by
    obtain ⟨ht, hs⟩ | hne := hnew
    · simp [hevqV ht] at hs
    · exact hne hevq
  cases step_effect h with
  | reset hr' => simp [hr] at hr'
  | drained => exact (hnone rfl fun h => nomatch h).elim
  | waited => exact (hnone rfl id).elim
  | symbol _ hv h =>
    obtain ⟨hevq, hevqV, -⟩ | ⟨e, rfl, hlive, hk, -⟩ := h.quiet_or_raised
    · exact (hnone hevq fun ht => hevqV.symm.trans ht).elim
    · exact ⟨hv, State.inReady_of_live hv hlive, hk, rfl⟩

/-- Settles O53: an event is raised by a symbol only, and `ST` is where the record's kind leaves it. -/
theorem raisedEventDecidesTheState : Obligations.RaisedEventDecidesTheState := by
  intro s t h hv htv
  cases step_effect h with
  | reset => cases htv
  | drained _ hv' | waited _ hv' => simp [hv] at hv'
  | symbol _ _ h =>
    obtain ⟨-, hevqV, -⟩ | ⟨e, rfl, -⟩ := h.quiet_or_raised
    · simp [htv, hv] at hevqV
    · exact ⟨stateAfter_eq_stopped_iff.mpr, fun hk =>
        congrArg State.st (s.takeInput.raise_of_ne_streamError (e := e) hk)⟩

/-! ### What a step does not look at -/

/-- Two steps that leave the same rest of the schedule and see the same `rst` and `ev_ready` end alike, where the
operations they select with no event pending do. -/
theorem step_eq_of_same_exec {s t : State} (htake : s.takeInput = t.takeInput)
    (hrst : s.nextInput.rst = t.nextInput.rst) (hev : s.nextInput.evReady = t.nextInput.evReady)
    (hexec : s.evqV = false →
      exec (decodeFields s.params.marker false s.st s.nextInput.inKind s.nextInput.inData) s.takeInput =
        exec (decodeFields s.params.marker false s.st t.nextInput.inKind t.nextInput.inData) s.takeInput) :
    step s = step t := by
  have hparams : s.params = t.params := by simpa using congrArg State.params htake
  have hst : s.st = t.st := by simpa using congrArg State.st htake
  have hevqV : s.evqV = t.evqV := by simpa using congrArg State.evqV htake
  by_cases hl : t.params.legal = true
  · have hls : s.params.legal = true := hparams ▸ hl
    cases hr : t.nextInput.rst with
    | true => rw [step_of_rst hls (hrst.trans hr), step_of_rst hl hr, htake]
    | false =>
      cases hv : t.evqV with
      | true => rw [step_of_pending hls (hrst.trans hr) (hevqV.trans hv), step_of_pending hl hr hv, htake, hev]
      | false =>
        rw [step_of_ready hls (hrst.trans hr) (hevqV.trans hv), hexec (hevqV.trans hv), step_of_ready hl hr hv,
          hparams, hst, htake]
  · rw [step_of_not_legal (hparams ▸ hl), step_of_not_legal hl]

/-- With the input port closed and no event pending, no operation that a symbol selects looks at it: STOPPED.HOLD
keeps the state and RSV.STATE stops. -/
theorem exec_decodeFields_of_not_live {s : State} (k k' : SymKind) (d d' : Byte) (hv : s.evqV = false)
    (hlive : ¬ s.st.isLive = true) :
    exec (decodeFields s.params.marker false s.st k d) s = exec (decodeFields s.params.marker false s.st k' d') s := by
  obtain hst | hst := ParseState.stopped_or_reserved_of_not_isLive hlive
  · rw [hst, decodeFields_stopped, decodeFields_stopped, exec_stoppedHold k d hv hst, exec_stoppedHold k' d' hv hst]
  · rw [decodeFields_reserved _ hst, decodeFields_reserved _ hst, exec_rsvState, exec_rsvState]

/-- Settles O51: a closed input port with no event pending is that of a state which takes no symbol. -/
theorem unconsumedSymbolHasNoEffect : Obligations.UnconsumedSymbolHasNoEffect := by
  intro s a b rest hready hrst hev
  refine step_eq_of_same_exec rfl hrst hev fun hv => ?_
  have hlive : ¬ s.st.isLive = true := fun hlive =>
    Bool.eq_false_iff.mp hready (State.inReady_of_live (s := s) hv hlive)
  exact exec_decodeFields_of_not_live (s := State.takeInput { s with inputs := a :: rest }) _ _ _ _ hv hlive

/-- The operations of IDLE and SHORT do not read the data bits (30_encoding.md R73). -/
theorem exec_decodeFields_idle_or_short (marker : Byte) (st : ParseState) {k k' : SymKind} (d d' : Byte)
    (s : State) (hkk : k = k') (hk : k = .idle ∨ k = .short) :
    exec (decodeFields marker false st k d) s = exec (decodeFields marker false st k' d') s := by
  subst hkk
  obtain rfl | rfl := hk <;> cases st <;> rfl

/-- Settles O52: a pending event makes the step blind to the symbol, and with none pending the selected operation does
not read the data bits. -/
theorem dataOfIdleAndShortIsIgnored : Obligations.DataOfIdleAndShortIsIgnored := by
  intro s a b rest hrst hev hkind hk
  exact step_eq_of_same_exec rfl hrst hev fun _ => exec_decodeFields_idle_or_short _ _ _ _ _ hkind hk

end Sys2Proof.Machine

/-! The encoder against the decoder (30_encoding.md R71, R76): a row's word is the word of its fields, and the rows
with a word are the ones that fields select. -/

namespace Sys2Proof

/-- The row that the fields of a word select is well-formed, and its word is that word (30_encoding.md R76). -/
theorem decodeFields_wellFormed_and_encode (marker : Byte) (v : Bool) (st : ParseState) (k : SymKind) (d : Byte) :
    (decodeFields marker v st k d).wellFormed marker = true ∧
      encode marker (decodeFields marker v st k d) = some (mkDecodeWord v st k d) := by
  cases v with
  | true => exact ⟨rfl, rfl⟩
  | false =>
    cases st with
    | seekStart =>
      cases k with
      | byte =>
        by_cases hd : d = marker
        · rw [hd, Machine.decodeFields_seekStart_marker]
          exact ⟨rfl, rfl⟩
        · rw [Machine.decodeFields_seekStart_discard hd]
          exact ⟨bne_iff_ne.mpr hd, rfl⟩
      | idle | short | err => exact ⟨rfl, rfl⟩
    | stopped | reserved6 | reserved7 => exact ⟨rfl, rfl⟩
    | readHeaderType | readHeaderLen | readPayload | readChecksum => cases k <;> exact ⟨rfl, rfl⟩

/-- Every well-formed operation with a word of its own is selected by some fields (30_encoding.md R76). -/
theorem exists_decodeFields_eq {marker : Byte} {i : Instr} (hwf : i.wellFormed marker = true)
    (hown : i.hasOwnWord = true) : ∃ v st k d, decodeFields marker v st k d = i := by
  cases i with
  | stall st k d => exact ⟨true, st, k, d, rfl⟩
  | rsvState st k d =>
    cases st with
    | reserved6 => exact ⟨false, .reserved6, k, d, rfl⟩
    | reserved7 => exact ⟨false, .reserved7, k, d, rfl⟩
    | seekStart | readHeaderType | readHeaderLen | readPayload | readChecksum | stopped => cases hwf
  | stoppedHold k d => exact ⟨false, .stopped, k, d, rfl⟩
  | idle st d => exact ⟨false, st, .idle, d, decodeFields_idle marker hwf d⟩
  | streamErr st d => exact ⟨false, st, .err, d, decodeFields_err marker hwf d⟩
  | seekShort d => exact ⟨false, .seekStart, .short, d, rfl⟩
  | fieldShort st d => exact ⟨false, st, .short, d, decodeFields_short marker hwf d⟩
  | seekMarker => exact ⟨false, .seekStart, .byte, marker, Machine.decodeFields_seekStart_marker marker⟩
  | seekDiscard b => exact ⟨false, .seekStart, .byte, b, Machine.decodeFields_seekStart_discard (bne_iff_ne.mp hwf)⟩
  | hdrType b => exact ⟨false, .readHeaderType, .byte, b, rfl⟩
  | hdrLen b => exact ⟨false, .readHeaderLen, .byte, b, rfl⟩
  | payByte b => exact ⟨false, .readPayload, .byte, b, rfl⟩
  | chkByte c => exact ⟨false, .readChecksum, .byte, c, rfl⟩
  | chkMatch | chkMismatch | dispUnknown | dispMalformed | dispTemperature | dispHumidity | dispExt | evDrain | reset =>
    cases hown

/-- Settles O1: the operation is selected by some fields, its word is theirs, and a word of fields decodes to what they
select. -/
theorem decodeOfEncodeIsTheOperation : Obligations.DecodeOfEncodeIsTheOperation := by
  intro marker i w hwf hown hw
  obtain ⟨v, st, k, d, rfl⟩ := exists_decodeFields_eq hwf hown
  obtain ⟨-, hword⟩ := decodeFields_wellFormed_and_encode marker v st k d
  rw [← Option.some.inj (hword.symm.trans hw), decode_mkDecodeWord]

/-- Settles O2: a word is the word of its fields, and the row that they select is well-formed and has that word. -/
theorem encodeOfDecodeIsTheWord : Obligations.EncodeOfDecodeIsTheWord := by
  intro marker w
  obtain ⟨hwf, hword⟩ := decodeFields_wellFormed_and_encode marker w.evqV w.st w.kind w.data
  exact ⟨hwf, decodeFields_hasOwnWord .., hword.trans (congrArg some (mkDecodeWord_fields w))⟩

/-! ### The printed table -/

/-- The upper six bits of a decode word: `EVQ.v`, `ST` and `in_kind` (30_encoding.md R71). -/
def upperBits (v : Bool) (st : ParseState) (k : SymKind) : BitVec 6 := BitVec.ofBool v ++ st.code ++ k.code

/-- A row of 30_encoding.md R76 whose mask and pattern leave every data bit free. -/
def upperRow (mnemonic : String) (mask pattern : BitVec 6) : DecodeRow :=
  { mnemonic, mask := mask ++ 0#8, pattern := pattern ++ 0#8 }

/-- Row 8 of 30_encoding.md R76: every bit is fixed. -/
def markerRow (marker : Byte) : DecodeRow :=
  { mnemonic := "SEEK.MARKER", mask := BitVec.allOnes 14, pattern := mkDecodeWord false .seekStart .byte marker }

/-- The printed masks and patterns, upper six bits each, row 8 apart. -/
theorem decodeTable_eq (marker : Byte) :
    decodeTable marker =
      [ upperRow "STALL" 0x20 0x20, upperRow "RSV.STATE" 0x38 0x18, upperRow "STOPPED.HOLD" 0x3C 0x14,
        upperRow "IDLE" 0x23 0x00, upperRow "STREAM.ERR" 0x23 0x03, upperRow "SEEK.SHORT" 0x3F 0x02,
        upperRow "FIELD.SHORT" 0x23 0x02, markerRow marker, upperRow "SEEK.DISCARD" 0x3F 0x01,
        upperRow "HDR.TYPE" 0x3F 0x05, upperRow "HDR.LEN" 0x3F 0x09, upperRow "PAY.BYTE" 0x3F 0x0D,
        upperRow "CHK.BYTE" 0x3F 0x11 ] := rfl

/-- A row that leaves the data bits free is decided by the upper six bits. -/
theorem firstMatch_upperRow_cons (v : Bool) (st : ParseState) (k : SymKind) (d : Byte) (mnemonic : String)
    (mask pattern : BitVec 6) (rows : List DecodeRow) :
    firstMatch (mkDecodeWord v st k d) (upperRow mnemonic mask pattern :: rows) =
      if upperBits v st k &&& mask = pattern then some mnemonic else firstMatch (mkDecodeWord v st k d) rows := by
  have hmask : mkDecodeWord v st k d &&& (mask ++ 0#8) = (upperBits v st k &&& mask) ++ 0#8 :=
    Laws.RowPattern.append_and_mask (upperBits v st k) mask d
  have hrow : mkDecodeWord v st k d &&& (mask ++ 0#8) = pattern ++ 0#8 ↔ upperBits v st k &&& mask = pattern := by
    rw [hmask]
    exact BitVec.append_left_inj 0#8
  simp only [firstMatch, upperRow, hrow]

/-- Row 8 matches the word of its own fields alone. -/
theorem firstMatch_markerRow_cons (marker : Byte) (v : Bool) (st : ParseState) (k : SymKind) (d : Byte)
    (rows : List DecodeRow) :
    firstMatch (mkDecodeWord v st k d) (markerRow marker :: rows) =
      if v = false ∧ st = .seekStart ∧ k = .byte ∧ d = marker then some "SEEK.MARKER"
      else firstMatch (mkDecodeWord v st k d) rows := by
  have hfields : mkDecodeWord v st k d = mkDecodeWord false .seekStart .byte marker ↔
      v = false ∧ st = .seekStart ∧ k = .byte ∧ d = marker := by
    refine ⟨fun h => ⟨?_, ?_, ?_, ?_⟩, fun ⟨hv, hst, hk, hd⟩ => by rw [hv, hst, hk, hd]⟩
    · simpa [mkDecodeWord_evqV] using congrArg DecodeWord.evqV h
    · simpa [mkDecodeWord_st] using congrArg DecodeWord.st h
    · simpa [mkDecodeWord_kind] using congrArg DecodeWord.kind h
    · simpa [mkDecodeWord_data] using congrArg DecodeWord.data h
  simp only [firstMatch, markerRow, BitVec.and_allOnes, hfields]

/-- Settles O3: each row of the printed table is a condition on the fields of the word, and the first one that holds is
the row of the operation that they select. -/
theorem decodeIsFirstMatchingRow : Obligations.DecodeIsFirstMatchingRow := by
  intro marker w
  rw [← mkDecodeWord_fields w, decode_mkDecodeWord, decodeTable_eq]
  generalize w.evqV = v, w.st = st, w.kind = k, w.data = d
  simp only [firstMatch_upperRow_cons, firstMatch_markerRow_cons]
  cases v with
  | true => cases st <;> cases k <;> rfl
  | false =>
    cases st with
    | seekStart =>
      cases k with
      | byte =>
        have hup : upperBits false .seekStart .byte = 0x01 := rfl
        by_cases hd : d = marker <;> simp [hup, hd, decodeFields, Instr.mnemonic]
      | idle | short | err => rfl
    | readHeaderType | readHeaderLen | readPayload | readChecksum | stopped | reserved6 | reserved7 => cases k <;> rfl

/-- Settles O4: thirteen words, each decoded by evaluation. -/
theorem decodeWordsOfTheTraces : Obligations.DecodeWordsOfTheTraces := by
  unfold Obligations.DecodeWordsOfTheTraces
  decide

end Sys2Proof

/-! The arithmetic laws of the checksum (42_checksum.md R92) and the bytes of a frame (30_encoding.md R61, R63). -/

namespace Sys2Proof.Machine

@[simp] theorem xorFold_nil : xorFold [] = 0 := rfl

@[simp] theorem xorFold_cons (b : Byte) (p : List Byte) : xorFold (b :: p) = b ^^^ xorFold p := rfl

@[simp] theorem xorFold_append (p q : List Byte) : xorFold (p ++ q) = xorFold p ^^^ xorFold q := by
  induction p with
  | nil => simp
  | cons b p ih => simp [ih, BitVec.xor_assoc]

theorem xorFold_perm {p q : List Byte} (h : p.Perm q) : xorFold p = xorFold q := by
  induction h with
  | nil => rfl
  | cons b _ ih => simp [ih]
  | swap b c p => rw [xorFold_cons, xorFold_cons, xorFold_cons, xorFold_cons, ← BitVec.xor_assoc, ← BitVec.xor_assoc,
      BitVec.xor_comm b c]
  | trans _ _ ih ih' => exact ih.trans ih'

theorem checksum_append (marker t n : Byte) (p q : List Byte) :
    checksum marker t n (p ++ q) = checksum marker t n p ^^^ xorFold q := by
  simp [checksum, BitVec.xor_assoc]

/-- Settles O59: the three laws of the exclusive-or fold. -/
theorem checksumLaws : Obligations.ChecksumLaws := by
  refine fun marker t n p q b => ⟨fun h => ?_, ?_, checksum_append marker t n p q⟩
  · rw [checksum, checksum, xorFold_perm h]
  · rw [checksum, checksum, xorFold_cons, xorFold_cons, ← BitVec.xor_assoc b, BitVec.xor_self, BitVec.zero_xor]

/-! ### Frames -/

theorem attemptBytes_length (marker t n : Byte) (p : List Byte) (c : Byte) :
    (attemptBytes marker t n p c).length = 4 + p.length := by
  simp only [attemptBytes, List.length_append, List.length_cons, List.length_nil]
  omega

/-- The bytes before the checksum byte fold to the frame's checksum (30_encoding.md R63). -/
theorem xorFold_attemptBytes (marker t n : Byte) (p : List Byte) (c : Byte) :
    xorFold (attemptBytes marker t n p c) = checksum marker t n p ^^^ c := by
  simp [attemptBytes, checksum, BitVec.xor_assoc]

/-- Settles O60: a frame is an attempt whose checksum byte is what its other bytes fold to. -/
theorem frameBytesFoldToZero : Obligations.FrameBytesFoldToZero :=
  fun _ _ _ _ => ⟨attemptBytes_length .., (xorFold_attemptBytes ..).trans (BitVec.xor_self ..)⟩

end Sys2Proof.Machine

/-! How far a frame has been read: `TYPE`, `LEN` and some payload bytes are in the registers (10_state.md R41, R42). -/

namespace Sys2Proof.Machine

/-- The header `t`, `n` and the payload bytes `p` have been read: they are in the registers and in `PBUF`, `ACC` is
their checksum, and `ST` asks for what comes next. -/
structure HasRead (t n : Byte) (p : List Byte) (s : State) : Prop where
  type : s.type = t
  len : s.len = n
  fits : p.length ≤ n.toNat
  cnt : s.cnt.toNat = p.length
  written : s.pbuf.readRange 0 p.length = some p
  acc : s.acc = checksum s.params.marker t n p
  st : s.st = if p.length = n.toNat then .readChecksum else .readPayload

section
variable {t n : Byte} {p : List Byte} {s : State}

theorem HasRead.st_of_lt (h : HasRead t n p s) (hlt : p.length < n.toNat) : s.st = .readPayload :=
  h.st.trans (if_neg hlt.ne)

theorem HasRead.st_of_eq (h : HasRead t n p s) (heq : p.length = n.toNat) : s.st = .readChecksum :=
  h.st.trans (if_pos heq)

theorem HasRead.payload_of_eq (h : HasRead t n p s) (heq : p.length = n.toNat) : s.payload = some p := by
  rw [State.payload, h.len, ← heq]
  exact h.written

/-- The schedule and the counter are no part of what has been read. -/
theorem HasRead.takeInput (h : HasRead t n p s) : HasRead t n p s.takeInput :=
  ⟨h.type, h.len, h.fits, h.cnt, h.written, h.acc, h.st⟩

/-- HDR.LEN leaves the header read and no payload byte (41_header_payload.md R87). -/
theorem hasRead_hdrLen (b : Byte) (hacc : s.acc = s.params.marker ^^^ s.type) :
    HasRead s.type b [] ((((s.setLen b).setCnt 0x00).setAcc (s.acc ^^^ b)).setSt
      (if b = 0x00 then .readChecksum else .readPayload)) where
  type := rfl
  len := rfl
  fits := Nat.zero_le _
  cnt := rfl
  written := rfl
  acc := by simp [checksum, hacc]
  st := by
    have hzero : b = 0x00 ↔ ([] : List Byte).length = b.toNat := by
      rw [List.length_nil, eq_comm (a := 0), BitVec.toNat_eq]
      rfl
    simp only [State.setSt_st, hzero]

/-- PAY.BYTE adds its byte to the payload read (41_header_payload.md R88). -/
theorem HasRead.payByte (h : HasRead t n p s) (hlt : p.length < n.toNat) (b : Byte) :
    HasRead t n (p ++ [b]) ((((s.setPbuf s.cnt.toNat b).setAcc (s.acc ^^^ b)).setCnt (s.cnt + 1)).setSt
      (if s.cnt + 1 = s.len then .readChecksum else .readPayload)) := by
  have hlen : (p ++ [b]).length = p.length + 1 := List.length_append
  have hcnt : (s.cnt + 1).toNat = p.length + 1 := by
    have hn := n.isLt
    rw [BitVec.toNat_add, h.cnt]
    exact Nat.mod_eq_of_lt (by simp; omega)
  refine ⟨h.type, h.len, by omega, hcnt.trans hlen.symm, ?_, ?_, ?_⟩
  · rw [hlen, State.setSt_pbuf, State.setCnt_pbuf, State.setAcc_pbuf, State.setPbuf_pbuf, h.cnt]
    exact Memory.readRange_write_end b h.written
  · simp [checksum_append, h.acc]
  · have hlast : s.cnt + 1 = s.len ↔ (p ++ [b]).length = n.toNat := by
      rw [h.len, ← BitVec.toNat_inj, hcnt, hlen]
    simp only [State.setSt_st, hlast]

/-! ### The registers in the middle of a frame -/

/-- What the registers hold once the header is read, as the invariant has it (10_state.md R41, R42). -/
theorem HasRead.frameProgress (h : HasRead t n p s) : frameProgress s := by
  unfold Machine.frameProgress
  by_cases heq : p.length = n.toNat
  · rw [h.st_of_eq heq]
    refine ⟨BitVec.eq_of_toNat_eq ?_, p, h.payload_of_eq heq, ?_⟩
    · rw [h.cnt, heq, h.len]
    · rw [h.acc, h.type, h.len]
  · have hlt := Nat.lt_of_le_of_ne h.fits heq
    rw [h.st_of_lt hlt]
    refine ⟨?_, p, ?_, ?_⟩
    · rwa [h.cnt, h.len]
    · rw [h.cnt]
      exact h.written
    · rw [h.acc, h.type, h.len]

theorem acc_of_readHeaderType (h : frameProgress s) (hst : s.st = .readHeaderType) : s.acc = s.params.marker := by
  simpa [Machine.frameProgress, hst] using h

theorem acc_of_readHeaderLen (h : frameProgress s) (hst : s.st = .readHeaderLen) :
    s.acc = s.params.marker ^^^ s.type := by
  simpa [Machine.frameProgress, hst] using h

theorem hasRead_of_readPayload (h : frameProgress s) (hst : s.st = .readPayload) :
    ∃ p, HasRead s.type s.len p s ∧ p.length < s.len.toNat := by
  unfold Machine.frameProgress at h
  rw [hst] at h
  obtain ⟨hlt, p, hp, hacc⟩ := h
  have hcnt := Memory.readRange_length hp
  rw [← hcnt] at hlt hp
  exact ⟨p, ⟨rfl, rfl, hlt.le, hcnt.symm, hp, hacc, hst.trans (if_neg hlt.ne).symm⟩, hlt⟩

theorem payload_of_readChecksum (h : frameProgress s) (hst : s.st = .readChecksum) : ∃ p, s.payload = some p := by
  unfold Machine.frameProgress at h
  rw [hst] at h
  obtain ⟨-, p, hp, -⟩ := h
  exact ⟨p, hp⟩

theorem not_reserved_of_frameProgress (h : frameProgress s) : ¬ (s.st = .reserved6 ∨ s.st = .reserved7) := by
  unfold Machine.frameProgress at h
  rintro (hst | hst) <;> rwa [hst] at h

end

end Sys2Proof.Machine

/-! The invariant of reachable states (10_state.md R40 to R43, 30_encoding.md R75): it holds after reset, every step
keeps it, and a state that meets it has a next step. -/

namespace Sys2Proof.Machine

/-! ### Reset -/

/-- Settles O34: the values of the reset state, field by field. -/
theorem resetWritesTheResetValues : Obligations.ResetWritesTheResetValues :=
  fun _ => ⟨_, rfl, rfl, rfl, rfl, rfl, rfl, rfl, rfl, fun _ => rfl, rfl⟩

/-- Settles O35: the values of the first state, field by field. -/
theorem firstResetState : Obligations.FirstResetState :=
  ⟨rfl, rfl, rfl, rfl, rfl, rfl, rfl, Memory.read_nil⟩

/-! ### How the invariant is built up -/

section
variable {s : State}

/-- With no event pending nothing is asked of the record. -/
theorem Inv.of_quiet (hl : s.params.legal = true) (hwf : s.pbuf.wf) (hprog : frameProgress s) (hv : s.evqV = false) :
    Inv s :=
  ⟨hl, hwf, hprog, fun hv' => by simp [hv] at hv', fun hv' => by simp [hv] at hv'⟩

theorem frameProgress_of_st {st : ParseState} (hst : s.st = st) (h : st = .seekStart ∨ st = .stopped) :
    frameProgress s := by
  unfold frameProgress
  obtain rfl | rfl := h <;> rw [hst] <;> trivial

/-- After an event the block is between frames or has stopped (60_exceptions.md R116). -/
theorem stateAfter_eq (k : EventKind) : stateAfter k = .seekStart ∨ stateAfter k = .stopped := by
  cases k <;> simp [stateAfter]

/-- Raising an event of its kind's form keeps the invariant. -/
theorem Inv.raise (h : Inv s) {e : Event} (hform : eventForm s.params e)
    (hp : e.kind = .validReading → s.pbuf.readRange 0 e.len.toNat = some e.payload) : Inv (s.raise e) where
  legal := h.legal
  pbufWf := h.pbufWf
  progress := frameProgress_of_st (s.raise_st e) (stateAfter_eq e.kind)
  pending := fun _ => ⟨hform, rfl⟩
  pendingPayload := fun _ => hp

/-- The invariant does not speak of the model's own schedule and counter. -/
theorem Inv.takeInput (h : Inv s) : Inv s.takeInput :=
  ⟨h.legal, h.pbufWf, h.progress, h.pending, h.pendingPayload⟩

theorem Inv.clearEvent (h : Inv s) : Inv s.clearEvent :=
  .of_quiet h.legal h.pbufWf h.progress rfl

theorem Inv.resetState (h : Inv s) : Inv s.resetState :=
  .of_quiet h.legal h.pbufWf trivial rfl

/-! ### The records that are raised -/

/-- A diagnostic of a field state names a field and fewer bytes than its read asked for (44_stream_control.md R108). -/
theorem eventForm_shortReadDiag (hon : s.params.shortReadEvent = true) (hfield : s.st.isField = true)
    (hprog : frameProgress s) : eventForm s.params (shortReadDiag s.st s.len s.cnt) := by
  cases hst : s.st with
  | readHeaderType | readHeaderLen | readChecksum =>
    exact ⟨hon, rfl, by simp [shortReadDiag], by simp [shortReadDiag, Config.hdrBytes]⟩
  | readPayload =>
    obtain ⟨p, hread, hlt⟩ := hasRead_of_readPayload hprog hst
    exact ⟨hon, rfl, by simp [shortReadDiag], by simpa [shortReadDiag, hread.cnt] using hlt⟩
  | seekStart | stopped | reserved6 | reserved7 => simp [hst, ParseState.isField] at hfield

/-- A record of DISPATCH has its kind's form, and a reading carries the payload (43_dispatch.md R99 to R101). -/
theorem eventForm_of_dispatch {ps : Params} {t n : Byte} {p : List Byte} {e : Event} (hp : p.length = n.toNat)
    (he : dispatch ps t n p = some e) : eventForm ps e ∧ (e.kind = .validReading → e.len = n ∧ e.payload = p) := by
  obtain ⟨hd, rfl⟩ | ⟨d, hd, ⟨hw, rfl⟩ | ⟨hw, v, hdec, rfl⟩⟩ := dispatch_eq_some he
  · exact ⟨⟨rfl, hd⟩, fun h => nomatch h⟩
  · exact ⟨⟨rfl, hw, d, hd, rfl⟩, fun h => nomatch h⟩
  · exact ⟨⟨rfl, hp, d, hd, hw, hdec⟩, fun _ => ⟨rfl, rfl⟩⟩

/-! ### Every symbol keeps the invariant -/

/-- The outcome of a symbol keeps the invariant. -/
theorem Inv.symbolOutcome {k : SymKind} {d : Byte} {u : State} (hinv : Inv s) (hv : s.evqV = false)
    (h : SymbolOutcome s k d (.next u)) : Inv u := by
  have hprog := hinv.progress
  cases h with
  | held | idle | seekShort | seekDiscard => exact hinv
  | streamErr => exact hinv.raise rfl (fun h => nomatch h)
  | shortSilent => exact .of_quiet hinv.legal hinv.pbufWf trivial hv
  | shortDiag _ hfield hon =>
    have hkind := shortReadDiag_kind hfield s.len s.cnt
    exact hinv.raise (eventForm_shortReadDiag hon hfield hprog) (by simp [hkind])
  | seekMarker => exact .of_quiet hinv.legal hinv.pbufWf rfl hv
  | hdrType _ hst =>
    exact .of_quiet hinv.legal hinv.pbufWf (congrArg (· ^^^ d) (acc_of_readHeaderType hprog hst)) hv
  | hdrLen _ hst =>
    have hread := hasRead_hdrLen d (acc_of_readHeaderLen hprog hst)
    exact .of_quiet hinv.legal hinv.pbufWf hread.frameProgress hv
  | payByte _ hst hcnt =>
    obtain ⟨p, hread, hlt⟩ := hasRead_of_readPayload hprog hst
    exact .of_quiet hinv.legal (Memory.write_wf d hinv.pbufWf hcnt) (hread.payByte hlt d).frameProgress hv
  | mismatch _ _ hc => exact hinv.raise ⟨rfl, hc⟩ (fun h => nomatch h)
  | dispatched _ _ _ hp he =>
    obtain ⟨hform, hread⟩ := eventForm_of_dispatch (Memory.readRange_length hp) he
    refine hinv.raise hform fun hk => ?_
    obtain ⟨hlen, hpay⟩ := hread hk
    rw [hlen, hpay]
    exact hp
  | unread _ hst _ hp =>
    obtain ⟨p, hp'⟩ := payload_of_readChecksum hprog hst
    simp [hp] at hp'

end

/-! ### The statements about reachable states -/

/-- Settles O40: this hardware's registry is legal and nothing has been read. -/
theorem invHoldsAfterReset : Obligations.InvHoldsAfterReset :=
  .of_quiet Params.legal_thisHardware Memory.nil_wf trivial rfl

/-- Settles O41: the reset, the drain and the wait leave less to be asked, and a symbol keeps the invariant. -/
theorem everyStepKeepsInv : Obligations.EveryStepKeepsInv := by
  intro s t hinv h
  cases step_effect h with
  | reset => exact hinv.takeInput.resetState
  | drained => exact hinv.takeInput.clearEvent
  | waited => exact hinv.takeInput
  | symbol _ hv h => exact hinv.takeInput.symbolOutcome hv h

/-- Settles O42: a reset and a pending event always have a next state, and the invariant excludes the three stops of a
symbol: a reserved code, `CNT` past the last entry, an unwritten payload. -/
theorem noReachableStepStops : Obligations.NoReachableStepStops := by
  intro s hinv
  cases hr : s.nextInput.rst with
  | true => exact ⟨_, step_of_rst hinv.legal hr⟩
  | false =>
    cases hv : s.evqV with
    | true =>
      rw [step_of_pending hinv.legal hr hv]
      split <;> exact ⟨_, rfl⟩
    | false =>
      have hout := step_symbolOutcome hinv.legal hr hv
      generalize step s = r at hout ⊢
      cases hout with
      | reserved hst => exact absurd hst (not_reserved_of_frameProgress hinv.progress)
      | noEntry _ hst hcnt =>
        obtain ⟨p, hread, hlt⟩ := hasRead_of_readPayload hinv.progress hst
        have hlen := s.len.isLt
        exact absurd (hread.cnt.trans_lt (by simp only [Config.payloadMax]; omega)) hcnt
      | unwritten _ hst hp =>
        obtain ⟨p, hp'⟩ := payload_of_readChecksum hinv.progress hst
        exact absurd (hp'.symm.trans hp) (Option.some_ne_none p)
      | _ => exact ⟨_, rfl⟩

/-! ### The ports in a reachable state -/

/-- Settles O38: the bytes of the record's payload are the entries of `PBUF` that the port shows. -/
theorem payloadPortShowsThePayload : Obligations.PayloadPortShowsThePayload := by
  intro s a hinv hv hk ha
  obtain ⟨hlen, hread⟩ := Memory.readRange_eq_some.mp (hinv.pendingPayload hv hk)
  have hentry : s.pbuf.read a.toNat = s.evq.payload[a.toNat]? := by simpa using hread a.toNat ha
  have hbyte := List.getElem?_eq_getElem (hlen.symm ▸ ha)
  rw [hbyte] at hentry ⊢
  simp [State.outputs, State.plData, hv, hk, ha, hentry]

/-- In a live state with no event pending no symbol selects one of the rows 1 to 3 (30_encoding.md R76). -/
theorem decodeFields_ne_rowsOneToThree (marker : Byte) {st : ParseState} (hlive : st.isLive = true) (k : SymKind)
    (d : Byte) (st' : ParseState) (k' : SymKind) (d' : Byte) :
    decodeFields marker false st k d ≠ .stall st' k' d' ∧ decodeFields marker false st k d ≠ .rsvState st' k' d' ∧
      decodeFields marker false st k d ≠ .stoppedHold k' d' := by
  cases k with
  | idle => simp [decodeFields_idle marker hlive]
  | err => simp [decodeFields_err marker hlive]
  | short =>
    cases st with
    | seekStart | readHeaderType | readHeaderLen | readPayload | readChecksum => simp [decodeFields]
    | stopped | reserved6 | reserved7 => cases hlive
  | byte =>
    cases st with
    | seekStart => by_cases hd : d = marker <;> simp [decodeFields, hd]
    | readHeaderType | readHeaderLen | readPayload | readChecksum => simp [decodeFields]
    | stopped | reserved6 | reserved7 => cases hlive

theorem State.inReady_of_not_live {s : State} (hlive : ¬ s.st.isLive = true) : s.inReady = false :=
  Bool.eq_false_iff.mpr fun h => by
    obtain ⟨-, -, hcode⟩ := s.inReady_iff.mp h
    exact hlive (s.st.isLive_iff.mpr hcode)

/-- Settles O39: a pending event selects STALL; with none pending a live state selects a row of its own symbols, and
the other states select STOPPED.HOLD or RSV.STATE. -/
theorem notReadyIsRowsOneToThree : Obligations.NotReadyIsRowsOneToThree := by
  intro s inp
  rw [State.selectedOp_eq]
  cases hv : s.evqV with
  | true => simp [State.inReady_of_pending hv]
  | false =>
    by_cases hlive : s.st.isLive = true
    · obtain ⟨hstall, hrsv, hhold⟩ :=
        decodeFields_ne_rowsOneToThree s.params.marker hlive inp.inKind inp.inData s.st inp.inKind inp.inData
      simp [State.inReady_of_live hv hlive, hstall, hrsv, hhold]
    · obtain hst | hst := ParseState.stopped_or_reserved_of_not_isLive hlive
      · simp [State.inReady_of_not_live hlive, hst, decodeFields_stopped]
      · simp [State.inReady_of_not_live hlive, decodeFields_reserved _ hst]

end Sys2Proof.Machine

/-! A whole frame attempt (42_checksum.md R93 to R96): the bytes are consumed one a step, the header and the payload end
in the registers, and the checksum byte ends the attempt with one event. -/

namespace Sys2Proof.Machine

/-! ### Bytes to come -/

/-- With no event pending, the next steps consume the bytes `bs`, one a step, and `rest` is left of the schedule. -/
structure Awaits (bs : List Byte) (rest : List Input) (s : State) : Prop where
  legal : s.params.legal = true
  quiet : s.evqV = false
  delivered : ∃ ins, s.inputs = ins ++ rest ∧ delivers ins bs = true

section
variable {bs : List Byte} {rest : List Input} {s : State} {b t n : Byte} {p : List Byte}

theorem Awaits.step_eq (h : Awaits (b :: bs) rest s) :
    step s = exec (decodeFields s.params.marker false s.st .byte b) s.takeInput := by
  obtain ⟨ins, hins, hdel⟩ := h.delivered
  obtain ⟨i, is, rfl, hr, hk, rfl, -⟩ := delivers_cons hdel
  exact step_of_byte h.legal h.quiet hins hr hk

theorem Awaits.takeInput (h : Awaits (b :: bs) rest s) : Awaits bs rest s.takeInput := by
  obtain ⟨ins, hins, hdel⟩ := h.delivered
  obtain ⟨i, is, rfl, -, -, -, hdel⟩ := delivers_cons hdel
  exact ⟨h.legal, h.quiet, is, by simp [hins], hdel⟩

/-- A step that consumes a byte is the meaning of the row that the byte selects. -/
theorem Awaits.step_eq_next {i : Instr} {u : State} (h : Awaits (b :: bs) rest s)
    (hrow : decodeFields s.params.marker false s.st .byte b = i) (hexec : exec i s.takeInput = .next u) :
    step s = .next u := by
  rw [h.step_eq, hrow, hexec]

theorem Awaits.inputs_eq (h : Awaits [] rest s) : s.inputs = rest := by
  obtain ⟨ins, hins, hdel⟩ := h.delivered
  cases ins with
  | nil => exact hins
  | cons => cases hdel

/-- An update that keeps the parameters, the schedule and `EVQ.v` leaves the same bytes to come. -/
theorem Awaits.congr {u : State} (h : Awaits bs rest s) (hparams : u.params = s.params) (hevqV : u.evqV = s.evqV)
    (hinputs : u.inputs = s.inputs) : Awaits bs rest u :=
  ⟨hparams ▸ h.legal, hevqV.trans h.quiet, hinputs ▸ h.delivered⟩

/-! ### One byte of a frame -/

theorem Awaits.seekMarker (h : Awaits (s.params.marker :: bs) rest s) (hst : s.st = .seekStart) :
    ∃ u, step s = .next u ∧ Awaits bs rest u ∧ u.params = s.params ∧ u.st = .readHeaderType ∧
      u.acc = s.params.marker := by
  have hstep := h.step_eq_next (hst ▸ decodeFields_seekStart_marker _) (exec_seekMarker h.quiet hst)
  exact ⟨_, hstep, h.takeInput.congr rfl rfl rfl, rfl, rfl, rfl⟩

theorem Awaits.hdrType (h : Awaits (b :: bs) rest s) (hst : s.st = .readHeaderType) :
    ∃ u, step s = .next u ∧ Awaits bs rest u ∧ u.params = s.params ∧ u.st = .readHeaderLen ∧ u.type = b ∧
      u.acc = s.acc ^^^ b := by
  have hstep := h.step_eq_next (hst ▸ decodeFields_readHeaderType_byte _ b) (exec_hdrType b h.quiet hst)
  exact ⟨_, hstep, h.takeInput.congr rfl rfl rfl, rfl, rfl, rfl, rfl⟩

theorem Awaits.hdrLen (h : Awaits (b :: bs) rest s) (hst : s.st = .readHeaderLen)
    (hacc : s.acc = s.params.marker ^^^ s.type) :
    ∃ u, step s = .next u ∧ Awaits bs rest u ∧ u.params = s.params ∧ HasRead s.type b [] u := by
  have hstep := h.step_eq_next (hst ▸ decodeFields_readHeaderLen_byte _ b) (exec_hdrLen b h.quiet hst)
  exact ⟨_, hstep, h.takeInput.congr rfl rfl rfl, rfl, hasRead_hdrLen (s := s.takeInput) b hacc⟩

theorem Awaits.payByte (h : Awaits (b :: bs) rest s) (hread : HasRead t n p s) (hlt : p.length < n.toNat) :
    ∃ u, step s = .next u ∧ Awaits bs rest u ∧ u.params = s.params ∧ HasRead t n (p ++ [b]) u := by
  have hst := hread.st_of_lt hlt
  have hcnt : s.cnt.toNat < Config.payloadMax := by
    have hn := n.isLt
    rw [hread.cnt, Config.payloadMax]
    omega
  have hstep := h.step_eq_next (hst ▸ decodeFields_readPayload_byte _ b) (exec_payByte b h.quiet hst hcnt)
  exact ⟨_, hstep, h.takeInput.congr rfl rfl rfl, rfl, hread.takeInput.payByte hlt b⟩

/-- The end of a frame attempt with the parameters `ps`: the frame in the registers, and one event, the dispatch of the
frame or the mismatch (42_checksum.md R94, R95). -/
structure AttemptEnded (ps : Params) (t n : Byte) (p : List Byte) (c : Byte) (rest : List Input) (u : State) :
    Prop where
  st : u.st = .seekStart
  raised : u.evqV = true
  inputs : u.inputs = rest
  type : u.type = t
  len : u.len = n
  payload : u.payload = some p
  dispatched : c = checksum ps.marker t n p → dispatch ps t n p = some u.evq
  mismatch : c ≠ checksum ps.marker t n p →
    u.evq = { kind := .checksumMismatch, recv := c, calcd := checksum ps.marker t n p }

theorem Awaits.chkByte {c : Byte} (h : Awaits [c] rest s) (hread : HasRead t n p s) (heq : p.length = n.toNat) :
    ∃ u, step s = .next u ∧ AttemptEnded s.params t n p c rest u := by
  have hst := hread.st_of_eq heq
  have hp := hread.payload_of_eq heq
  obtain ⟨e, hexec, hne, hmatch⟩ := chkByteRaisesOneEvent.2 s.takeInput c p h.legal h.quiet hst hp
  simp only [State.takeInput_acc, State.takeInput_type, State.takeInput_len, State.takeInput_params, hread.acc,
    hread.type, hread.len] at hne hmatch
  have hstep := h.step_eq_next (hst ▸ decodeFields_readChecksum_byte _ c) hexec
  exact ⟨_, hstep, rfl, rfl, h.takeInput.inputs_eq, hread.type, hread.len, hp, hmatch, hne⟩

end

/-! ### The attempt -/

/-- Once the header and the bytes `p` are read, the rest `q` of the payload and the checksum byte end the attempt. -/
theorem run_payload_and_checksum {t n c : Byte} {rest : List Input} (q : List Byte) {p : List Byte} {s : State}
    (hread : HasRead t n p s) (h : Awaits (q ++ [c]) rest s) (hlen : p.length + q.length = n.toNat) :
    ∃ u, run (q.length + 1) s = .next u ∧ AttemptEnded s.params t n (p ++ q) c rest u := by
  induction q generalizing p s with
  | nil =>
    obtain ⟨u, hstep, hend⟩ := h.chkByte hread hlen
    exact ⟨u, (run_succ hstep).trans (run_zero u), by rwa [List.append_nil]⟩
  | cons b q ih =>
    rw [List.length_cons] at hlen
    obtain ⟨u, hstep, hawaits, hparams, hread⟩ := h.payByte hread (by omega)
    obtain ⟨v, hrun, hend⟩ := ih hread hawaits (by rw [List.length_append, List.length_singleton]; omega)
    rw [List.append_assoc, List.singleton_append, hparams] at hend
    exact ⟨v, (run_succ hstep).trans hrun, hend⟩

theorem run_attempt {s : State} {t n c : Byte} {p : List Byte} {rest : List Input}
    (h : Awaits (attemptBytes s.params.marker t n p c) rest s) (hst : s.st = .seekStart) (hlen : p.length = n.toNat) :
    ∃ u, run (4 + n.toNat) s = .next u ∧ AttemptEnded s.params t n p c rest u := by
  obtain ⟨s1, hstep1, h1, hparams1, hst1, hacc1⟩ := Awaits.seekMarker (bs := t :: n :: (p ++ [c])) h hst
  obtain ⟨s2, hstep2, h2, hparams2, hst2, rfl, hacc2⟩ := h1.hdrType hst1
  obtain ⟨s3, hstep3, h3, hparams3, hread⟩ := h2.hdrLen hst2 (by rw [hacc2, hacc1, hparams2, hparams1])
  obtain ⟨u, hrun, hend⟩ := run_payload_and_checksum p hread h3 (by simpa using hlen)
  rw [hparams3, hparams2, hparams1] at hend
  refine ⟨u, ?_, hend⟩
  calc run (4 + n.toNat) s
    _ = run (p.length + 1 + 1 + 1 + 1) s := by rw [hlen, Nat.add_comm 4]
    _ = run (p.length + 1) s3 := by rw [run_succ hstep1, run_succ hstep2, run_succ hstep3]
    _ = .next u := hrun

/-- Settles O54: the attempt's marker and header take three steps, the payload one a byte, and the checksum byte one. -/
theorem frameAttemptOutcome : Obligations.FrameAttemptOutcome := by
  intro s ins rest t n c p hl hv hst hlen hins hdel
  obtain ⟨u, hrun, hend⟩ := run_attempt ⟨hl, hv, ins, hins, hdel⟩ hst hlen
  exact ⟨u, hrun, hend.st, hend.raised, hend.inputs, hend.type, hend.len, hend.payload, hend.dispatched, hend.mismatch⟩

/-! ### One flipped bit -/

theorem xorFold_modify (m : Byte) {i : Nat} {p : List Byte} (h : i < p.length) :
    xorFold (p.modify i (· ^^^ m)) = xorFold p ^^^ m := by
  induction p generalizing i with
  | nil => simp at h
  | cons b p ih =>
    cases i with
    | zero => simp [BitVec.xor_assoc, BitVec.xor_comm m]
    | succ i => simp [ih (Nat.lt_of_succ_lt_succ h), BitVec.xor_assoc]

/-- A change of a byte that is neither the marker nor the length leaves an attempt of the same length. -/
theorem attemptBytes_modify (marker t n c : Byte) (p : List Byte) (f : Byte → Byte) {k : Nat} (h0 : k ≠ 0)
    (h2 : k ≠ 2) : ∃ t' p' c', (attemptBytes marker t n p c).modify k f = attemptBytes marker t' n p' c' ∧
      p'.length = p.length := by
  match k with
  | 0 => exact absurd rfl h0
  | 1 => exact ⟨f t, p, c, rfl, rfl⟩
  | 2 => exact absurd rfl h2
  | j + 3 =>
    have hlen : ((p ++ [c]).modify j f).length = p.length + 1 := by simp
    obtain hnil | ⟨p', c', hq⟩ := List.eq_nil_or_concat ((p ++ [c]).modify j f)
    · simp [hnil] at hlen
    · refine ⟨t, p', c', ?_, by simpa [hq] using hlen⟩
      simp [attemptBytes, hq]

/-- A frame with bits changed in a byte that is neither the marker nor the length is an attempt whose checksum byte is
not the one of its type and payload: its bytes no longer fold to 0 (42_checksum.md R96 (a)). -/
theorem frameBytes_modify (marker t : Byte) {m : Byte} {p : List Byte} {k : Nat} (hp : p.length ≤ 255) (hm : m ≠ 0)
    (hk : k < 4 + p.length) (h0 : k ≠ 0) (h2 : k ≠ 2) :
    ∃ t' p' c', (frameBytes marker t p).modify k (· ^^^ m) =
        attemptBytes marker t' (BitVec.ofNat 8 p.length) p' c' ∧ p'.length = p.length ∧
      c' ≠ checksum marker t' (BitVec.ofNat 8 p.length) p' := by
  obtain ⟨hlen, hzero⟩ := frameBytesFoldToZero marker t p hp
  obtain ⟨t', p', c', hbytes, hlen'⟩ := attemptBytes_modify marker t (BitVec.ofNat 8 p.length)
    (checksum marker t (BitVec.ofNat 8 p.length) p) p (· ^^^ m) h0 h2
  refine ⟨t', p', c', hbytes, hlen', fun hc => hm ?_⟩
  calc m
    _ = xorFold (frameBytes marker t p) ^^^ m := by rw [hzero]; exact BitVec.zero_xor.symm
    _ = xorFold ((frameBytes marker t p).modify k (· ^^^ m)) := (xorFold_modify m (hlen ▸ hk)).symm
    _ = xorFold (attemptBytes marker t' (BitVec.ofNat 8 p.length) p' c') := congrArg xorFold hbytes
    _ = 0 := by rw [xorFold_attemptBytes, hc]; exact BitVec.xor_self

theorem one_shiftLeft_ne_zero {j : Nat} (hj : j < 8) : 1#8 <<< j ≠ 0 := by
  revert j
  decide

/-- Settles O55: the changed frame is an attempt of the same length with the wrong checksum byte. -/
theorem oneFlippedBitIsAMismatch : Obligations.OneFlippedBitIsAMismatch := by
  intro s ins rest t p k j hl hv hst hlen hk h0 h2 hj hins hdel
  obtain ⟨t', p', c', hbytes, hlen', hc⟩ :=
    frameBytes_modify s.params.marker t hlen (one_shiftLeft_ne_zero hj) hk h0 h2
  have hn : (BitVec.ofNat 8 p.length).toNat = p.length := by
    rw [BitVec.toNat_ofNat]
    exact Nat.mod_eq_of_lt (by omega)
  obtain ⟨u, hrun, hend⟩ := run_attempt ⟨hl, hv, ins, hins, hbytes ▸ hdel⟩ hst (hlen'.trans hn.symm)
  rw [hn] at hrun
  exact ⟨u, hrun, hend.st, hend.raised, by rw [hend.mismatch hc]⟩

end Sys2Proof.Machine

/-! Runs of several steps that do not read a frame: noise, and the wait for the sink. -/

namespace Sys2Proof.Machine

/-- Settles O56: each byte takes one step, which discards it. -/
theorem noiseLeavesTheStateAsItWas : Obligations.NoiseLeavesTheStateAsItWas := by
  intro s ins rest bs hl hv hst hins hdel hne
  have h : Awaits bs rest s := ⟨hl, hv, ins, hins, hdel⟩
  clear hins hdel hl hv
  induction bs generalizing s with
  | nil => rw [← h.inputs_eq]; rfl
  | cons b bs ih =>
    have hb := hne b List.mem_cons_self
    have hstep := h.step_eq_next (hst ▸ decodeFields_seekStart_discard hb) (exec_seekDiscard h.quiet hst hb)
    have hrun := ih s.takeInput hst (fun c hc => hne c (List.mem_cons_of_mem b hc)) h.takeInput
    rw [List.length_cons, run_succ hstep, hrun, State.takeInput_tick, Nat.add_assoc, Nat.add_comm 1]
    rfl

/-- Settles O58: each step with `ev_ready = 0` waits, and the one with `ev_ready = 1` drains. -/
theorem stallLastsUntilTheSinkTakes : Obligations.StallLastsUntilTheSinkTakes := by
  intro s k i hl hv hwait hi hr he
  induction k generalizing s with
  | zero =>
    have hnext : s.nextInput = i := by simp [← State.upcoming_zero, State.upcoming, hi]
    have hstep := pendingEventWaitsForTheSink s hl hv (hnext ▸ hr)
    rw [hnext, he] at hstep
    rw [run_succ hstep, run_zero, List.drop_one]
    rfl
  | succ k ih =>
    obtain ⟨j, js, hjs⟩ : ∃ j js, s.inputs = j :: js := by
      cases h : s.inputs with
      | nil => simp [h] at hi
      | cons j js => exact ⟨j, js, rfl⟩
    obtain ⟨hnext, htail⟩ := s.takeInput_nextInput_cons j js hjs
    obtain ⟨hjr, hje⟩ := hwait j (by simp [hjs])
    have hstep : step s = .next s.takeInput := by
      rw [step_of_pending hl (hnext ▸ hjr) hv, hnext, hje]
      rfl
    have hwait' : ∀ l ∈ s.takeInput.inputs.take k, l.rst = false ∧ l.evReady = false := fun l hmem =>
      hwait l (by rw [hjs, List.take_succ_cons]; exact List.mem_cons_of_mem j (htail ▸ hmem))
    have hrun := ih s.takeInput hl hv hwait' (by simpa [htail, hjs] using hi)
    rw [run_succ hstep, hrun, htail, hjs, State.takeInput_tick, Nat.add_assoc, Nat.add_comm 1]
    rfl

end Sys2Proof.Machine

/-! A frame attempt ends (70_reset_and_hazards.md R141): every symbol other than `IDLE` lowers the progress measure,
and `IDLE` keeps it. -/

namespace Sys2Proof.Machine

/-! ### The progress measure -/

theorem State.remaining_of_not_isField {s : State} (h : ¬ s.st.isField = true) : s.remaining = 0 := by
  unfold State.remaining
  cases hst : s.st with
  | seekStart | stopped | reserved6 | reserved7 => rfl
  | readHeaderType | readHeaderLen | readPayload | readChecksum => simp [hst, ParseState.isField] at h

theorem State.remaining_pos {s : State} (h : s.st.isField = true) : 0 < s.remaining := by
  unfold State.remaining
  cases hst : s.st with
  | seekStart | stopped | reserved6 | reserved7 => simp [hst, ParseState.isField] at h
  | readHeaderType | readHeaderLen | readPayload | readChecksum => simp

theorem State.remaining_le (s : State) : s.remaining ≤ 258 := by
  have hlen := s.len.isLt
  unfold State.remaining
  split <;> omega

theorem HasRead.remaining {t n : Byte} {p : List Byte} {s : State} (h : HasRead t n p s) :
    s.remaining = n.toNat - p.length + 1 := by
  by_cases heq : p.length = n.toNat
  · simp [State.remaining, h.st_of_eq heq, heq]
  · have hst := h.st_of_lt (Nat.lt_of_le_of_ne h.fits heq)
    simp [State.remaining, hst, h.len, h.cnt]

/-- No event leaves the block in a field state (60_exceptions.md R116). -/
theorem stateAfter_not_isField (k : EventKind) : ¬ (stateAfter k).isField = true := by
  cases k <;> decide

theorem State.raise_not_isField (s : State) (e : Event) : ¬ (s.raise e).st.isField = true :=
  stateAfter_not_isField e.kind

/-- A symbol other than `IDLE` that a field state consumes takes the attempt a step nearer to its end, or ends it. -/
theorem SymbolOutcome.remaining_lt {s u : State} {k : SymKind} {d : Byte} (h : SymbolOutcome s k d (.next u))
    (hfield : s.st.isField = true) (hprog : frameProgress s) (hk : k ≠ .idle) : u.remaining < s.remaining := by
  have hends (hu : ¬ u.st.isField = true) : u.remaining < s.remaining := by
    rw [State.remaining_of_not_isField hu]
    exact State.remaining_pos hfield
  cases h with
  | idle hk' => exact absurd hk' hk
  | held hst | seekShort _ hst | seekDiscard _ hst | seekMarker _ hst => simp [hst, ParseState.isField] at hfield
  | shortSilent => exact hends (by simp [ParseState.isField])
  | streamErr | shortDiag | mismatch | dispatched | unread => exact hends (s.raise_not_isField _)
  | hdrType _ hst => simp [State.remaining, hst]
  | hdrLen _ hst =>
    have hd := d.isLt
    rw [(hasRead_hdrLen d (acc_of_readHeaderLen hprog hst)).remaining]
    simp only [State.remaining, hst, List.length_nil]
    omega
  | payByte _ hst =>
    obtain ⟨p, hread, hlt⟩ := hasRead_of_readPayload hprog hst
    rw [(hread.payByte hlt d).remaining, hread.remaining, List.length_append, List.length_singleton]
    omega

theorem SymbolOutcome.eq_of_idle {s u : State} {k : SymKind} {d : Byte} (h : SymbolOutcome s k d (.next u))
    (hk : k = .idle) : u = s := by
  cases h with
  | held | idle | seekShort | seekDiscard => rfl
  | streamErr hk' | shortSilent hk' | shortDiag hk' | seekMarker hk' | hdrType hk' | hdrLen hk' | payByte hk'
  | mismatch hk' | dispatched hk' | unread hk' => cases hk.symm.trans hk'

/-! ### Steps of a frame attempt -/

/-- An event leaves the field states, so none is pending in them. -/
theorem Inv.quiet_of_isField {s : State} (hinv : Inv s) (hfield : s.st.isField = true) : s.evqV = false :=
  Bool.eq_false_iff.mpr fun hv => by
    obtain ⟨-, hst⟩ := hinv.pending hv
    exact stateAfter_not_isField _ (hst ▸ hfield)

/-- A step takes the schedule's first input, whatever it does (log entry 1). -/
theorem step_inputs {s u : State} (h : step s = .next u) : u.inputs = s.inputs.tail := by
  cases step_effect h with
  | reset | drained | waited => rfl
  | symbol _ _ h => cases h <;> rfl

/-- A step of a frame attempt without a reset counts its symbol against what is left of the attempt. -/
theorem remaining_step {s u : State} (hinv : Inv s) (hfield : s.st.isField = true) (hr : s.nextInput.rst = false)
    (h : step s = .next u) :
    (s.nextInput.inKind = .idle → u.remaining = s.remaining) ∧
      (s.nextInput.inKind ≠ .idle → u.remaining < s.remaining) := by
  have hv := hinv.quiet_of_isField hfield
  cases step_effect h with
  | reset hr' => simp [hr] at hr'
  | drained _ hv' | waited _ hv' => simp [hv] at hv'
  | symbol _ _ h => exact ⟨fun hk => by rw [h.eq_of_idle hk]; rfl, h.remaining_lt hfield hinv.takeInput.progress⟩

/-- The schedule of a frame attempt outlasts it: by induction on the schedule, each step of which is an `IDLE` or counts
against what is left of the attempt. -/
theorem exists_run_not_isField (ins : List Input) {s : State} (hinv : Inv s) (hfield : s.st.isField = true)
    (hins : s.inputs = ins) (hrst : ∀ i ∈ ins, i.rst = false)
    (hrem : s.remaining ≤ (ins.filter fun i => i.inKind ≠ .idle).length) :
    ∃ k t, k ≤ ins.length ∧ run k s = .next t ∧ t.st.isField = false := by
  induction ins generalizing s with
  | nil => exact absurd hrem (Nat.not_le_of_gt (State.remaining_pos hfield))
  | cons i ins ih =>
    obtain ⟨hnext, -⟩ := s.takeInput_nextInput_cons i ins hins
    obtain ⟨u, hstep⟩ := noReachableStepStops s hinv
    obtain ⟨hidle, hconsumed⟩ := remaining_step hinv hfield (hnext ▸ hrst i List.mem_cons_self) hstep
    cases hu : u.st.isField with
    | false => exact ⟨1, u, by simp, run_succ hstep, hu⟩
    | true =>
      have hinputs : u.inputs = ins := by rw [step_inputs hstep, hins, List.tail_cons]
      have hleft : u.remaining ≤ (ins.filter fun i => i.inKind ≠ .idle).length := by
        rw [hnext] at hidle hconsumed
        by_cases hk : i.inKind = .idle
        · rwa [hidle hk, ← List.filter_cons_of_neg (a := i) (by simpa using hk)]
        · rw [List.filter_cons_of_pos (by simpa using hk), List.length_cons] at hrem
          have hlt := hconsumed hk
          omega
      obtain ⟨k, t, hk, hrun, ht⟩ := ih (everyStepKeepsInv s u hinv hstep) hu hinputs
        (fun j hj => hrst j (List.mem_cons_of_mem i hj)) hleft
      exact ⟨k + 1, t, by simpa using hk, (run_succ hstep).trans hrun, ht⟩

/-- Settles O57: the schedule holds as many symbols as the attempt can still consume, at most 258. -/
theorem frameAttemptEnds : Obligations.FrameAttemptEnds :=
  fun s hinv hfield hrst hrem => ⟨s.remaining_le, exists_run_not_isField s.inputs hinv hfield rfl hrst hrem⟩

end Sys2Proof.Machine
